-- ==== Sys2Proof/Word.lean ====
section
/-! DEFINITION. The word types of the unit and the type of a frame (00_scope.md R13). -/

namespace Sys2Proof

/-- A byte (R13: "a byte is 8 bits"). -/
abbrev Byte := BitVec 8

/-- A value of the 64-bit XR register format (R31, R80). It is a value, never a string of bytes (R54). -/
abbrev Xr := BitVec 64

/-- A frame: a string of bytes (R13, R55), held as the list of its non-zero bytes with their indices. The size of a
frame is the parameter `FRAME_SIZE`; `Frame.wf` says that the list stands for a string of that many bytes. -/
abbrev Frame := List Host.Cell

/-- Which end of a byte string is the least significant (the parameter `CK_ORDER` of R7). -/
inductive ByteOrder where
  | little
  | big
  deriving DecidableEq, Repr, Inhabited

/-- The canonical form from index `lo` on: indices strictly rising, all below `n`, no listed byte zero. -/
def Frame.canonicalFrom (n : Nat) : Nat → Frame → Bool
  | _, [] => true
  | lo, (a, b) :: rest =>
    decide (lo ≤ a) && decide (a < n) && decide (b ≠ 0#8) && Frame.canonicalFrom n (a + 1) rest

/-- The list stands for exactly one string of `n` bytes (R13, R239): canonical form, so that equal strings are equal
lists. -/
def Frame.wf (n : Nat) (f : Frame) : Bool :=
  Frame.canonicalFrom n 0 f

end Sys2Proof
end

