-- ==== Sys2Proof/Machine/Operands.lean ====
section
/-! DEFINITION. The operand forms: the four fields of the XR format (30_encoding.md R80 to R83), the signed reading of
`result` (R13, R83), and the bytes of a frame (R13, R55). -/

namespace Sys2Proof

/-- Packing (R81, R110): each field zero-extended, shifted to its place, and or-ed in. -/
def Xr.pack (op : BitVec 8) (frame : BitVec 16) (checksum : BitVec 32) (result : BitVec 8) : Xr :=
  (op.setWidth 64 <<< 56) ||| (frame.setWidth 64 <<< 40) ||| (checksum.setWidth 64 <<< 8) ||| result.setWidth 64

/-- The `op` field, bits 63:56 (R82). -/
def Xr.op (w : Xr) : BitVec 8 := w.extractLsb' 56 8

/-- The `frame` field, bits 55:40 (R82). -/
def Xr.frame (w : Xr) : BitVec 16 := w.extractLsb' 40 16

/-- The `checksum` field, bits 39:8 (R82). -/
def Xr.checksum (w : Xr) : BitVec 32 := w.extractLsb' 8 32

/-- The `result` field, bits 7:0, as a bit pattern (R82). -/
def Xr.result (w : Xr) : BitVec 8 := w.extractLsb' 0 8

/-- Unpacking (R82): the four fields `(op, frame, checksum, result)` of a register. With `Xr.pack` it is the pair of maps
of the round-trip law R85. -/
def Xr.unpack (w : Xr) : BitVec 8 × BitVec 16 × BitVec 32 × BitVec 8 :=
  (Xr.op w, Xr.frame w, Xr.checksum w, Xr.result w)

/-- `as_i8` (R13): the two's-complement reading of a byte. -/
def asI8 (b : BitVec 8) : Int :=
  if b.toNat < 128 then (b.toNat : Int) else (b.toNat : Int) - 256

/-- `as_u8` (R13): the byte that reads as the given number of -128 .. 127. -/
def asU8 (s : Int) : BitVec 8 :=
  BitVec.ofInt 8 (if 0 ≤ s then s else s + 256)

/-- Byte `i` of a frame (R13); a byte the list does not name is zero (log 9). -/
def Frame.byteAt : Frame → Nat → Byte
  | [], _ => 0
  | (a, b) :: rest, i => if a = i then b else Frame.byteAt rest i

/-- The string of the first `n` bytes of a frame, byte 0 first: what goes to the signature primitive (R55, R131). -/
def Frame.bytes (n : Nat) (f : Frame) : List Byte :=
  (List.range n).map f.byteAt

/-- The frame of a byte string whose first byte has index `i`, in canonical form. -/
def Frame.ofBytesFrom : Nat → List Byte → Frame
  | _, [] => []
  | i, b :: bs => if b = 0#8 then Frame.ofBytesFrom (i + 1) bs else (i, b) :: Frame.ofBytesFrom (i + 1) bs

/-- The frame of a byte string (R13), in canonical form. -/
def Frame.ofBytes (bs : List Byte) : Frame :=
  Frame.ofBytesFrom 0 bs

end Sys2Proof
end

