-- ==== Sys2Proof/Config.lean ====
section
/-! DEFINITION. The parameters of the unit (00_scope.md R6, R7), the constraints on them (R8), and the values the spec
leaves free. -/

namespace Sys2Proof

/-- The parameters of R6 and R7, each a named field. A step never changes them; `State` carries them (log 1). -/
structure Config where
  /-- `OP_INIT` (R7, R94). -/
  opInit : BitVec 8
  /-- `OP_ZERO_BLOCK` (R7, R94). -/
  opZeroBlock : BitVec 8
  /-- `OP_READ_FRAME` (R7, R94). -/
  opReadFrame : BitVec 8
  /-- `OP_WRITE_FRAME` (R7, R94). -/
  opWriteFrame : BitVec 8
  /-- `OP_POWER_OFF` (R7, R94). -/
  opPowerOff : BitVec 8
  /-- `FRAME_SIZE` (R6): bytes in a frame. -/
  frameSize : Nat
  /-- `BLOCK_CAPACITY_FRAMES` (R6). The unit compares nothing with it (R53). -/
  blockCapacityFrames : Nat
  /-- `RETRY_BUDGET` (R6): the greatest number of attempts of one operation (R149). -/
  retryBudget : Nat
  /-- `RESULT_FAIL` (R7, R186) by its complement: the signed results that do not signal failure (log 4). -/
  okResults : List Int
  /-- `SIG_LEN` (R7): bytes in a signature. -/
  sigLen : Nat
  /-- `SIG` (R7) on the frames whose signature is known, first entry first (log 5). -/
  sigKnown : List (Frame × List Byte)
  /-- `CK_ORDER` (R7): the order in which four signature bytes make a checksum (R130). -/
  ckOrder : ByteOrder
  deriving DecidableEq, Repr

/-- `W_OP`, width of the `op` field; fixed by protocol (R6). -/
def Config.wOp : Nat := 8
/-- `W_FRAME`, width of the `frame` field; fixed by protocol (R6). -/
def Config.wFrame : Nat := 16
/-- `W_CSUM`, width of the `checksum` field; fixed by protocol (R6). -/
def Config.wCsum : Nat := 32
/-- `W_RESULT`, width of the `result` field; fixed by protocol (R6). -/
def Config.wResult : Nat := 8
/-- `W_XR`, width of the register, the sum of the four (R6). -/
def Config.wXr : Nat := Config.wOp + Config.wFrame + Config.wCsum + Config.wResult

/-- No value occurs twice. -/
def Config.distinct : List (BitVec 8) → Bool
  | [] => true
  | x :: xs => xs.all (fun y => decide (y ≠ x)) && Config.distinct xs

/-- The five operation codes, in the source's order (R94). -/
def Config.opCodes (c : Config) : List (BitVec 8) :=
  [c.opInit, c.opZeroBlock, c.opReadFrame, c.opWriteFrame, c.opPowerOff]

/-- The constraints of R8, and that every known signature has `SIG_LEN` bytes and belongs to a frame (R131). -/
def Config.wf (c : Config) : Bool :=
  Config.distinct c.opCodes && decide (1 ≤ c.retryBudget) && decide (4 ≤ c.sigLen) &&
    decide (1 ≤ c.frameSize) && decide (c.blockCapacityFrames ≤ 2 ^ Config.wFrame) &&
    c.sigKnown.all (fun e => Frame.wf c.frameSize e.1 && decide (e.2.length = c.sigLen))

/-- The source's values of R6 and the spec's defaults of R7. DESIGN CHOICE `SIG_LEN` = 4, for which R7 gives no
default (log 5). A claim about the device must not rest on the defaults (R94). -/
def Config.default : Config where
  opInit := 0
  opZeroBlock := 1
  opReadFrame := 2
  opWriteFrame := 3
  opPowerOff := 4
  frameSize := 4096
  blockCapacityFrames := 65536
  retryBudget := 1000
  okResults := [0]
  sigLen := 4
  sigKnown := []
  ckOrder := .little

/-- FREE VALUE: the signature primitive (R131, R133), as the byte it puts at an index, a function of the byte string
alone. Nothing constrains it (log 5). -/
opaque Config.freeSigByte : List Byte → Nat → Byte

/-- FREE VALUE: what the n-th reset leaves in `FIDX` (R38, log 2). -/
opaque Config.resetFidx : Nat → BitVec 16
/-- FREE VALUE: what the n-th reset leaves in byte i of `FBUF` (R38, log 2). -/
opaque Config.resetFbufByte : Nat → Nat → Byte
/-- FREE VALUE: what the n-th reset leaves in `CSUM` (R38, log 2). -/
opaque Config.resetCsum : Nat → BitVec 32
/-- FREE VALUE: what the n-th reset leaves in `XCMD` (R38, log 2). -/
opaque Config.resetXcmd : Nat → Xr
/-- FREE VALUE: what the n-th reset leaves in `XRSP` (R38, log 2). -/
opaque Config.resetXrsp : Nat → Xr

/-- `XR_BYTE_ORDER` (R54): a parameter no rule uses, without a default (log 21). -/
opaque Config.xrByteOrder : ByteOrder
/-- `MAX_FILES` (R7): a parameter the unit does not use; the source gives no value (log 21). -/
opaque Config.maxFiles : Nat

end Sys2Proof
end

