-- ==== Sys2Proof/Syntax.lean ====
section
/-! DEFINITION. The instructions, one constructor per row of spec/opcode_table.json, and the two forms in which they are
presented: a bus command word and a request (30_encoding.md R80, R90). -/

namespace Sys2Proof

/-- One operation of the unit or one bus command word (R2). -/
inductive Instr where
  /-- Bus command word `INIT` (R192); its keys are not in the source. -/
  | init (key : BitVec 16) (key2 : BitVec 32) (result : BitVec 8)
  /-- Bus command word `ZERO_BLOCK` (R193). -/
  | zeroBlock (key : BitVec 16) (key2 : BitVec 32) (result : BitVec 8)
  /-- Bus command word `RDFRAME` (R190). -/
  | rdframe (frame : BitVec 16) (checksum : BitVec 32) (result : BitVec 8)
  /-- Bus command word `WRFRAME` (R191). -/
  | wrframe (frame : BitVec 16) (checksum : BitVec 32) (result : BitVec 8)
  /-- Bus command word `POWOFF` (R194). -/
  | powoff (key : BitVec 16) (key2 : BitVec 32) (result : BitVec 8)
  /-- Request `ENCODE` (R110). -/
  | encode (op : BitVec 8) (frame : BitVec 16) (checksum : BitVec 32) (result : BitVec 8)
  /-- Request `DECODE_RESULT` (R111). -/
  | decodeResult (reg : Xr)
  /-- Request `DECODE_CHECKSUM` (R112). -/
  | decodeChecksum (reg : Xr)
  /-- Request `DECODE_OP` (R113). -/
  | decodeOp (reg : Xr)
  /-- Request `DECODE_FRAME` (R114). -/
  | decodeFrame (reg : Xr)
  /-- Request `CHECKSUM` (R130). -/
  | checksum (data : Frame)
  /-- Request `READ_FRAME` (R141). -/
  | readFrame (frame : BitVec 16)
  /-- Request `WRITE_FRAME` (R151). -/
  | writeFrame (frame : BitVec 16) (data : Frame)
  deriving DecidableEq, Repr

/-- The mnemonic of the instruction's row (R94, R95). -/
def Instr.mnemonic : Instr → String
  | .init _ _ _ => "INIT"
  | .zeroBlock _ _ _ => "ZERO_BLOCK"
  | .rdframe _ _ _ => "RDFRAME"
  | .wrframe _ _ _ => "WRFRAME"
  | .powoff _ _ _ => "POWOFF"
  | .encode _ _ _ _ => "ENCODE"
  | .decodeResult _ => "DECODE_RESULT"
  | .decodeChecksum _ => "DECODE_CHECKSUM"
  | .decodeOp _ => "DECODE_OP"
  | .decodeFrame _ => "DECODE_FRAME"
  | .checksum _ => "CHECKSUM"
  | .readFrame _ => "READ_FRAME"
  | .writeFrame _ _ => "WRITE_FRAME"

/-- The instruction is one of the eight requests of R95 (and not a bus command word of R94). -/
def Instr.isRequest : Instr → Bool
  | .init _ _ _ => false
  | .zeroBlock _ _ _ => false
  | .rdframe _ _ _ => false
  | .wrframe _ _ _ => false
  | .powoff _ _ _ => false
  | .encode _ _ _ _ => true
  | .decodeResult _ => true
  | .decodeChecksum _ => true
  | .decodeOp _ => true
  | .decodeFrame _ => true
  | .checksum _ => true
  | .readFrame _ => true
  | .writeFrame _ _ => true

/-- A request to the unit: the tuple of R90, every operand port exactly as wide as its type (R97). -/
structure Request where
  /-- `CMD`. -/
  cmd : BitVec 4
  /-- `A_OP`. -/
  aOp : BitVec 8 := 0
  /-- `A_FRAME`. -/
  aFrame : BitVec 16 := 0
  /-- `A_CSUM`. -/
  aCsum : BitVec 32 := 0
  /-- `A_RC`. -/
  aRc : BitVec 8 := 0
  /-- `A_REG`. -/
  aReg : Xr := 0
  /-- `A_DATA`. -/
  aData : Frame := []
  deriving DecidableEq, Repr

/-- What the requester's side can present: a request on the request interface, or a command word that another master
(the System Lifecycle, R189) puts on the bus itself. -/
inductive Wire where
  | command (w : Xr)
  | request (r : Request)
  deriving DecidableEq, Repr

end Sys2Proof
end

