-- ==== Sys2Proof/WellFormed.lean ====
section
/-! DEFINITION. Which instructions are well formed: a frame operand is exactly `FRAME_SIZE` bytes (70_reset_and_hazards.md
R239). Every value of every other operand is legal: the fields are exactly as wide as their ports (R97), every XR word
unpacks (R82), and every frame index is legal (R21). -/

namespace Sys2Proof

/-- The instruction's operands are values of the operand's types under the parameters `c`. -/
def WellFormed (c : Config) : Instr → Bool
  | .init _ _ _ => true
  | .zeroBlock _ _ _ => true
  | .rdframe _ _ _ => true
  | .wrframe _ _ _ => true
  | .powoff _ _ _ => true
  | .encode _ _ _ _ => true
  | .decodeResult _ => true
  | .decodeChecksum _ => true
  | .decodeOp _ => true
  | .decodeFrame _ => true
  | .checksum data => Frame.wf c.frameSize data
  | .readFrame _ => true
  | .writeFrame _ data => Frame.wf c.frameSize data

end Sys2Proof
end

