-- ==== Sys2Proof/Decode.lean ====
section
/-! DEFINITION. The decoder, total on every command word and every request tuple (30_encoding.md R93 to R96), and the
encoder beside it. -/

namespace Sys2Proof

/-- Why something presented is no instruction. -/
inductive DecodeError where
  /-- The `op` byte is none of the five `OP_*` values (R96). -/
  | reservedOp (op : BitVec 8)
  /-- `CMD` is one of the codes 8 to 15 (R93). -/
  | reservedCmd (cmd : BitVec 4)
  /-- The frame operand is no string of `FRAME_SIZE` bytes (R239). -/
  | notAFrame
  deriving DecidableEq, Repr

/-- A command word is selected by its `op` byte alone (R94, R99). -/
def decodeCommand (c : Config) (w : Xr) : Except DecodeError Instr :=
  if Xr.op w = c.opInit then .ok (.init (Xr.frame w) (Xr.checksum w) (Xr.result w))
  else if Xr.op w = c.opZeroBlock then .ok (.zeroBlock (Xr.frame w) (Xr.checksum w) (Xr.result w))
  else if Xr.op w = c.opReadFrame then .ok (.rdframe (Xr.frame w) (Xr.checksum w) (Xr.result w))
  else if Xr.op w = c.opWriteFrame then .ok (.wrframe (Xr.frame w) (Xr.checksum w) (Xr.result w))
  else if Xr.op w = c.opPowerOff then .ok (.powoff (Xr.frame w) (Xr.checksum w) (Xr.result w))
  else .error (.reservedOp (Xr.op w))

/-- A request is selected by `CMD` (R95); operands it does not list are ignored (R90). -/
def decodeRequest (c : Config) (r : Request) : Except DecodeError Instr :=
  match r.cmd.toNat with
  | 0 => .ok (.encode r.aOp r.aFrame r.aCsum r.aRc)
  | 1 => .ok (.decodeResult r.aReg)
  | 2 => .ok (.decodeChecksum r.aReg)
  | 3 => .ok (.decodeOp r.aReg)
  | 4 => .ok (.decodeFrame r.aReg)
  | 5 => if Frame.wf c.frameSize r.aData then .ok (.checksum r.aData) else .error .notAFrame
  | 6 => .ok (.readFrame r.aFrame)
  | 7 => if Frame.wf c.frameSize r.aData then .ok (.writeFrame r.aFrame r.aData) else .error .notAFrame
  | _ => .error (.reservedCmd r.cmd)

/-- The instruction in what is presented. -/
def decode (c : Config) : Wire → Except DecodeError Instr
  | .command w => decodeCommand c w
  | .request r => decodeRequest c r

/-- The command word or request that presents an instruction (R94, R95); operand ports it does not use hold zero. -/
def encode (c : Config) : Instr → Wire
  | .init k k2 r => .command (Xr.pack c.opInit k k2 r)
  | .zeroBlock k k2 r => .command (Xr.pack c.opZeroBlock k k2 r)
  | .rdframe f cs r => .command (Xr.pack c.opReadFrame f cs r)
  | .wrframe f cs r => .command (Xr.pack c.opWriteFrame f cs r)
  | .powoff k k2 r => .command (Xr.pack c.opPowerOff k k2 r)
  | .encode op f cs rc => .request { cmd := 0, aOp := op, aFrame := f, aCsum := cs, aRc := rc }
  | .decodeResult reg => .request { cmd := 1, aReg := reg }
  | .decodeChecksum reg => .request { cmd := 2, aReg := reg }
  | .decodeOp reg => .request { cmd := 3, aReg := reg }
  | .decodeFrame reg => .request { cmd := 4, aReg := reg }
  | .checksum data => .request { cmd := 5, aData := data }
  | .readFrame f => .request { cmd := 6, aFrame := f }
  | .writeFrame f data => .request { cmd := 7, aFrame := f, aData := data }

/-- The row of the opcode table with `nbits` bits and the bits `w`, as it is presented: 64 bits are a command word
(format XR), at most 8 bits are a `CMD` code with every operand port zero (format REQ) (log 8). -/
def tableWire (nbits w : Nat) : Option Wire :=
  if nbits = 64 then
    if w < 2 ^ 64 then some (.command (BitVec.ofNat 64 w)) else none
  else if nbits ≤ 8 then
    if w < 2 ^ 4 then some (.request { cmd := BitVec.ofNat 4 w }) else none
  else none

/-- The instruction the decoder reads from a row of the opcode table, under the spec's default parameters. -/
def decodeTableWord (nbits w : Nat) : Option Instr :=
  match tableWire nbits w with
  | none => none
  | some x =>
    match decode Config.default x with
    | .ok i => some i
    | .error _ => none

end Sys2Proof
end

