-- ==== Sys2Proof/Machine/State.lean ====
section
/-! DEFINITION. The state of the machine: the eight registers of 10_state.md R20, the parameters, and what stands on the
unit's three interfaces (R10); and the state right after reset (R38). -/

namespace Sys2Proof.Machine

/-- The sequencer's control state `PHASE` (R24). -/
inductive Phase where
  /-- No operation in progress; the only phase in which a request is accepted (R92). -/
  | idle
  /-- A stand-alone `CHECKSUM` has called the signature primitive. -/
  | ckSig
  /-- A read transaction is outstanding at the bus. -/
  | rdBus
  /-- The signature primitive has been called on the returned bytes. -/
  | rdSig
  /-- The signature primitive has been called on the operand bytes. -/
  | wrSig
  /-- A write transaction is outstanding at the bus. -/
  | wrBus
  deriving DecidableEq, Repr

/-- The error type of the operations (R200 to R203). -/
inductive TransferError where
  | checksumUnavailable
  | checksumExhausted
  | deviceError
  deriving DecidableEq, Repr

/-- The completion status `STATUS` (R28, R200). -/
inductive Status where
  | ok
  | checksumUnavailable
  | checksumExhausted
  | deviceError
  deriving DecidableEq, Repr

/-- Direction of a bus transaction (R14, R182): `rd` lets the bus replace `FBUF`, `wr` lets it only read it. -/
inductive Dir where
  | rd
  | wr
  deriving DecidableEq, Repr

/-- The bus's answer to a transaction (R180): the response word and, for a read, the buffer's new contents. On any
other transaction the buffer of the answer is not looked at. -/
structure BusAnswer where
  response : Xr
  buffer : Frame
  deriving DecidableEq, Repr

/-- The signature primitive's answer to a call (R131, R132): it fails, or it gives `SIG` of the bytes. -/
inductive SigAnswer where
  | fail
  | ok
  deriving DecidableEq, Repr

/-- A call that was made to the bus or to the signature primitive (R10, R61). -/
inductive Call where
  /-- The unit's bus transaction `Bus(cmd, dir)`, with the buffer it presented (R180). -/
  | bus (cmd : Xr) (buffer : Frame) (dir : Dir)
  /-- The unit's call of the signature primitive on all bytes of a frame (R131). -/
  | sig (bytes : Frame)
  /-- A bus transaction of another master (R189). -/
  | other (cmd : Xr)
  deriving DecidableEq, Repr

/-- A completion (R91): the status, and the results the operation drives. A result that is not driven is `none`: the
requester must not use it, and here cannot. -/
structure Completion where
  /-- `STATUS`. -/
  status : Status
  /-- `Q_REG`. -/
  qReg : Option Xr := none
  /-- `Q_OP`. -/
  qOp : Option (BitVec 8) := none
  /-- `Q_FRAME`. -/
  qFrame : Option (BitVec 16) := none
  /-- `Q_CSUM`. -/
  qCsum : Option (BitVec 32) := none
  /-- `Q_RC`, a signed 8-bit value. -/
  qRc : Option Int := none
  /-- `Q_DATA`. -/
  qData : Option Frame := none
  deriving DecidableEq, Repr

/-- The machine has no fault: "a normal error, never … a crash", not a machine fault (R11). An error is a completion
with its status, so no constructor is needed here. -/
inductive Fault where
  deriving DecidableEq, Repr

/-- Why the model gives something no step. Each is safe: nothing is claimed of what the hardware does then. -/
inductive Refusal where
  /-- An instruction without a meaning yet; raised only by an arm of `exec`. Safe. -/
  | notModelled (mnemonic : String)
  /-- A request while `BUSY` "is not accepted and has no effect; a model gives it no step" (R92, S3). Raised by every
  request's meaning when `PHASE` is not `IDLE`. Safe. -/
  | busy
  /-- Two masters would be on the bus at once, which the duty of R240 forbids. Raised by a command word that another
  master presents while the unit is busy or another such call waits, and by a transfer presented while such a call
  waits. Safe. -/
  | busNotExclusive
  /-- A request with a reserved `CMD` is refused (R93, S4). Raised by `step`. Safe. -/
  | reservedCmd (cmd : BitVec 4)
  /-- A payload that is not `FRAME_SIZE` bytes "cannot be expressed" (R239). Raised by `step`. Safe. -/
  | notAFrame
  /-- "A configuration that breaks a constraint is refused by the model" (R8). Raised by `step`. Safe. -/
  | badConfiguration
  deriving DecidableEq, Repr

/-- The state. The first field holds the parameters, the next eight are the registers of R20, the rest is what stands on
the unit's interfaces. -/
structure State where
  /-- The parameters (R6, R7); no step changes them (log 1). -/
  cfg : Config
  /-- `PHASE` (R24). -/
  phase : Phase
  /-- `ATTEMPT` (R25). -/
  attempt : Nat
  /-- `FIDX` (R21). -/
  fidx : BitVec 16
  /-- `FBUF` (R22). -/
  fbuf : Frame
  /-- `CSUM` (R23). -/
  csum : BitVec 32
  /-- `XCMD` (R26). -/
  xcmd : Xr
  /-- `XRSP` (R27). -/
  xrsp : Xr
  /-- `STATUS` (R28). -/
  status : Status
  /-- The operand of `CHECKSUM` while it is at the signature interface (R29); read only in `CK_SIG`. -/
  ckData : Frame
  /-- What the requester's side presents next, in its order (R61, R238). -/
  inbox : List Wire
  /-- The bus's answers to the transactions to come; where the list ends the bus never answers (R181, R246, log 6). -/
  busAnswers : List BusAnswer
  /-- The signature primitive's answers to the calls to come; where the list ends it never answers (R132, log 6). -/
  sigAnswers : List SigAnswer
  /-- Reset is asserted (R230, R231, log 15). -/
  resetLine : Bool
  /-- The command word of another master's bus call that waits for its answer (R189, log 10). -/
  extCall : Option Xr
  /-- The last answer another master got from the bus (R189, log 10). -/
  extReply : Option BusAnswer
  /-- Every call made so far to the bus and the signature primitive, oldest first (R61, log 16). -/
  calls : List Call
  /-- Every completion delivered so far, oldest first (R91, log 16). -/
  completions : List Completion
  /-- How many reset events there have been; the free reset values are functions of it (log 2). -/
  resets : Nat
  deriving DecidableEq, Repr

/-- What a step or a meaning answers. -/
abbrev Out := Host.Outcome State Fault Refusal

/-- `FBUF` after the n-th reset: `FRAME_SIZE` free bytes (R38, log 2). Irreducible only so that comparing two states does
not write out all of its bytes. -/
@[irreducible] def resetFbuf (frameSize n : Nat) : Frame :=
  Frame.ofBytes ((List.range frameSize).map (Config.resetFbufByte n))

/-- The machine right after reset (R38, R230): `PHASE` = `IDLE`, `ATTEMPT` = 0, `STATUS` = `OK`, the five unspecified
registers at free values (log 2), nothing on the interfaces (logs 6, 7, 10, 15, 16, 19). -/
def State.reset : State where
  cfg := Config.default
  phase := .idle
  attempt := 0
  fidx := Config.resetFidx 0
  fbuf := resetFbuf Config.default.frameSize 0
  csum := Config.resetCsum 0
  xcmd := Config.resetXcmd 0
  xrsp := Config.resetXrsp 0
  status := .ok
  ckData := []
  inbox := []
  busAnswers := []
  sigAnswers := []
  resetLine := false
  extCall := none
  extReply := none
  calls := []
  completions := []
  resets := 0

end Sys2Proof.Machine
end

