-- ==== Sys2Proof/Machine/Flags.lean ====
section
/-! DEFINITION. The unit's flags and predicates: `BUSY`, the codes of `STATUS`, `RESULT_FAIL` (10_state.md R28,
60_exceptions.md R200, 43_bus_commands.md R186). -/

namespace Sys2Proof.Machine

/-- `BUSY`, the derived flag "`x[PHASE] != IDLE`" (R28). -/
def busy (s : State) : Bool :=
  decide (s.phase ≠ .idle)

/-- The 2-bit code of a status (R200). -/
def statusCode : Status → BitVec 2
  | .ok => 0
  | .checksumUnavailable => 1
  | .checksumExhausted => 2
  | .deviceError => 3

/-- The status an error is reported with (R200). -/
def errorStatus : TransferError → Status
  | .checksumUnavailable => .checksumUnavailable
  | .checksumExhausted => .checksumExhausted
  | .deviceError => .deviceError

/-- `RESULT_FAIL` (R7, R186): does a signed result signal failure? -/
def resultFail (c : Config) (rc : Int) : Bool :=
  !c.okResults.contains rc

/-- Does the `result` field of a response word signal failure (R186, R203)? -/
def responseFails (c : Config) (w : Xr) : Bool :=
  resultFail c (asI8 (Xr.result w))

end Sys2Proof.Machine
end

