-- ==== Sys2Proof/Machine/Ops.lean ====
section
/-! DEFINITION. The operations shared by the meanings: the checksum of a frame (41_checksum_adapter.md R130), completing
an operation, raising an error (60_exceptions.md R208), issuing an attempt (42_frame_transfer.md R160), accepting a
request (30_encoding.md R92), fetching what is presented. -/

namespace Sys2Proof.Machine

/-- `SIG` of a frame (R131, R133): the known signature, or `SIG_LEN` free bytes that depend on the byte string alone. -/
def signature (c : Config) (f : Frame) : List Byte :=
  match c.sigKnown.lookup f with
  | some s => s
  | none => (List.range c.sigLen).map (Config.freeSigByte (f.bytes c.frameSize))

/-- Signature byte `i` as a 32-bit value. -/
def sigByte (s : List Byte) (i : Nat) : BitVec 32 :=
  (s.getD i 0).setWidth 32

/-- `trunc` (R130, R160): the 32-bit value made of signature bytes 0 to 3 in the order `CK_ORDER`. -/
def trunc (o : ByteOrder) (s : List Byte) : BitVec 32 :=
  match o with
  | .little => sigByte s 0 ||| (sigByte s 1 <<< 8) ||| (sigByte s 2 <<< 16) ||| (sigByte s 3 <<< 24)
  | .big => (sigByte s 0 <<< 24) ||| (sigByte s 1 <<< 16) ||| (sigByte s 2 <<< 8) ||| sigByte s 3

/-- `ck(B)`: the checksum of a frame whenever the signature call does not fail (R133). -/
def ck (c : Config) (f : Frame) : BitVec 32 :=
  trunc c.ckOrder (signature c f)

/-- `CK(B)` (R130), given the signature primitive's answer: the checksum, or nothing when the call failed. -/
def checksumOf (c : Config) (a : SigAnswer) (f : Frame) : Option (BitVec 32) :=
  match a with
  | .fail => none
  | .ok => some (ck c f)

/-- Deliver a completion and return to `IDLE` (R14, R160). -/
def complete (k : Completion) (s : State) : State :=
  { s with phase := .idle, completions := s.completions ++ [k] }

/-- `complete OK(results)` of an operation that writes `STATUS` (R14, R130, R141, R151). -/
def completeOk (k : Completion) (s : State) : State :=
  complete k { s with status := .ok }

/-- `raise <Error>` (R208), the unit's whole exception entry: `STATUS` is written, a completion without results is
delivered, `PHASE` becomes `IDLE`, every other register keeps its value. There is no return from it (R209). -/
def raise (e : TransferError) (s : State) : State :=
  complete { status := errorStatus e } { s with status := errorStatus e }

/-- Call the signature primitive on a frame. -/
def callSig (f : Frame) (s : State) : State :=
  { s with calls := s.calls ++ [.sig f] }

/-- The command word of every attempt of a read (R145): `ENCODE(OP_READ_FRAME, x[FIDX], 0, 0)`. -/
def readCommand (s : State) : Xr :=
  Xr.pack s.cfg.opReadFrame s.fidx 0 0

/-- The command word of every attempt of a write (R151): `ENCODE(OP_WRITE_FRAME, x[FIDX], x[CSUM], 0)`. -/
def writeCommand (s : State) : Xr :=
  Xr.pack s.cfg.opWriteFrame s.fidx s.csum 0

/-- Send a command word to the bus as the next attempt (R25, R26, R160). -/
def sendAttempt (cmd : Xr) (dir : Dir) (p : Phase) (s : State) : State :=
  { s with
    xcmd := cmd
    attempt := s.attempt + 1
    calls := s.calls ++ [.bus cmd s.fbuf dir]
    phase := p }

/-- `IssueRead` (R160). -/
def issueRead (s : State) : State :=
  if s.attempt = s.cfg.retryBudget then raise .checksumExhausted s
  else sendAttempt (readCommand s) .rd .rdBus s

/-- `IssueWrite` (R160). -/
def issueWrite (s : State) : State :=
  if s.attempt = s.cfg.retryBudget then raise .checksumExhausted s
  else sendAttempt (writeCommand s) .wr .wrBus s

/-- A request is accepted only in `IDLE` (R92); while `BUSY` it has no step. -/
def accept (s next : State) : Out :=
  if s.phase = .idle then .next next else .refused .busy

/-- A transfer needs the bus for itself from its acceptance on (R240). -/
def acceptTransfer (s next : State) : Out :=
  if s.phase = .idle then
    if s.extCall = none then .next next else .refused .busNotExclusive
  else .refused .busy

/-- Take what is presented next, unless another master still waits for the bus (R238, R240). -/
def fetch (s : State) : Option (Wire × State) :=
  match s.extCall, s.inbox with
  | none, w :: rest => some (w, { s with inbox := rest })
  | _, _ => none

end Sys2Proof.Machine
end

