-- ==== Sys2Proof/Machine/Sequencer.lean ====
section
/-! DEFINITION. The sequencer while it is busy: what it does with the answer its phase waits for (42_frame_transfer.md
R160, transitions T2, T3, T5 to T9, T11 to T15). Where no answer comes it stays as it is (R246). -/

namespace Sys2Proof.Machine

/-- `CK_SIG` (T2, T3; R130). -/
def checksumAnswered (s : State) : State :=
  match s.sigAnswers with
  | [] => s
  | a :: rest =>
    let s := { s with sigAnswers := rest }
    match checksumOf s.cfg a s.ckData with
    | none => raise .checksumUnavailable s
    | some c => completeOk { status := .ok, qCsum := some c } s

/-- `RD_BUS` (T5; R141): the bus's word goes to `XRSP`, its bytes replace `FBUF`, and they go to the signature
primitive. -/
def readAnswered (s : State) : State :=
  match s.busAnswers with
  | [] => s
  | a :: rest =>
    callSig a.buffer { s with busAnswers := rest, xrsp := a.response, fbuf := a.buffer, phase := .rdSig }

/-- The tests of a read attempt whose checksum is in `CSUM` (T7, T8, T9): first the checksums, then, only if they are
equal, the result (R142). -/
def judgeRead (s : State) : State :=
  if s.csum ≠ Xr.checksum s.xrsp then issueRead s
  else if responseFails s.cfg s.xrsp then raise .deviceError s
  else completeOk { status := .ok, qData := some s.fbuf } s

/-- `RD_SIG` (T6 to T9; R141). -/
def readChecked (s : State) : State :=
  match s.sigAnswers with
  | [] => s
  | a :: rest =>
    let s := { s with sigAnswers := rest }
    match checksumOf s.cfg a s.fbuf with
    | none => raise .checksumUnavailable s
    | some c => judgeRead { s with csum := c }

/-- `WR_SIG` (T11, T12; R151): the expected checksum, computed once. -/
def writeChecked (s : State) : State :=
  match s.sigAnswers with
  | [] => s
  | a :: rest =>
    let s := { s with sigAnswers := rest }
    match checksumOf s.cfg a s.fbuf with
    | none => raise .checksumUnavailable s
    | some c => issueWrite { s with csum := c }

/-- The tests of a write attempt whose response is in `XRSP` (T13, T14, T15): first the echo, then, only if it equals
what was sent, the result (R154). -/
def judgeWrite (s : State) : State :=
  if Xr.checksum s.xrsp ≠ s.csum then issueWrite s
  else if responseFails s.cfg s.xrsp then raise .deviceError s
  else completeOk { status := .ok } s

/-- `WR_BUS` (T13 to T15; R151). The bus may read `FBUF` and does not change it (R156). -/
def writeAnswered (s : State) : State :=
  match s.busAnswers with
  | [] => s
  | a :: rest => judgeWrite { s with busAnswers := rest, xrsp := a.response }

/-- The busy sequencer: the only event is the answer of the one agent its phase waits for (R160). -/
def sequencer (s : State) : State :=
  match s.phase with
  | .idle => s
  | .ckSig => checksumAnswered s
  | .rdBus => readAnswered s
  | .rdSig => readChecked s
  | .wrSig => writeChecked s
  | .wrBus => writeAnswered s

end Sys2Proof.Machine
end

