-- ==== Sys2Proof/Machine/BusCommands.lean ====
section
/-! DEFINITION. The five bus command words as bus transactions (43_bus_commands.md R180, R189 to R195). A word the unit
has outstanding is answered to the unit; any other word is another master's own bus call, which it makes only while the
unit is `IDLE` (R189, R240), and whose answer is unconstrained and changes no register of the unit (R37, R181, R192). -/

namespace Sys2Proof.Machine

/-- The bus's answer to another master's waiting call, if it comes, goes to that master. -/
def otherAnswered (s : State) : State :=
  match s.busAnswers with
  | [] => s
  | a :: rest => { s with busAnswers := rest, extCall := none, extReply := some a }

/-- Another master's bus transaction (R189): one synchronous call, which waits where the bus does not answer. -/
def otherTransaction (w : Xr) (s : State) : Out :=
  if s.phase = .idle ∧ s.extCall = none then
    .next (otherAnswered { s with extCall := some w, calls := s.calls ++ [.other w] })
  else .refused .busNotExclusive

/-- `INIT` (R192). -/
def execInit (key : BitVec 16) (key2 : BitVec 32) (result : BitVec 8) (s : State) : Out :=
  otherTransaction (Xr.pack s.cfg.opInit key key2 result) s

/-- `ZERO_BLOCK` (R193). -/
def execZeroBlock (key : BitVec 16) (key2 : BitVec 32) (result : BitVec 8) (s : State) : Out :=
  otherTransaction (Xr.pack s.cfg.opZeroBlock key key2 result) s

/-- `RDFRAME` (R190): the word of a read attempt that is outstanding is answered to the unit (T5). -/
def execRdframe (frame : BitVec 16) (checksum : BitVec 32) (result : BitVec 8) (s : State) : Out :=
  if s.phase = .rdBus ∧ s.xcmd = Xr.pack s.cfg.opReadFrame frame checksum result then .next (readAnswered s)
  else otherTransaction (Xr.pack s.cfg.opReadFrame frame checksum result) s

/-- `WRFRAME` (R191): the word of a write attempt that is outstanding is answered to the unit (T13 to T15). -/
def execWrframe (frame : BitVec 16) (checksum : BitVec 32) (result : BitVec 8) (s : State) : Out :=
  if s.phase = .wrBus ∧ s.xcmd = Xr.pack s.cfg.opWriteFrame frame checksum result then .next (writeAnswered s)
  else otherTransaction (Xr.pack s.cfg.opWriteFrame frame checksum result) s

/-- `POWOFF` (R194). -/
def execPowoff (key : BitVec 16) (key2 : BitVec 32) (result : BitVec 8) (s : State) : Out :=
  otherTransaction (Xr.pack s.cfg.opPowerOff key key2 result) s

/-- What is presented but is no instruction: a word with a reserved `op` is a bus call like any other, with an
unconstrained answer (R96); a reserved `CMD` and a payload that is no frame are refused (R93, R239). The decoder never
answers `reservedOp` for a request. -/
def rejected (e : DecodeError) (x : Wire) (s : State) : Out :=
  match x, e with
  | .command w, _ => otherTransaction w s
  | .request _, .reservedCmd cmd => .refused (.reservedCmd cmd)
  | .request _, .reservedOp _ => .refused .notAFrame
  | .request _, .notAFrame => .refused .notAFrame

/-- `IDLE` with nothing to accept: the unit waits (R230); another master's waiting call is answered if the bus does. -/
def idleWait (s : State) : State :=
  if s.extCall = none then s else otherAnswered s

end Sys2Proof.Machine
end

