-- ==== Sys2Proof/Machine/Checksum.lean ====
section
/-! DEFINITION. The stand-alone operation `CHECKSUM` (41_checksum_adapter.md R130): its acceptance, transition T1. -/

namespace Sys2Proof.Machine

/-- `CHECKSUM` (R130, T1): the operand goes straight to the signature primitive, so `FBUF` and `CSUM` are not disturbed
(R29); the unit waits in `CK_SIG` (`checksumAnswered`). -/
def execChecksum (data : Frame) (s : State) : Out :=
  accept s (callSig data { s with ckData := data, phase := .ckSig })

end Sys2Proof.Machine
end

