-- ==== Sys2Proof/Machine/Codec.lean ====
section
/-! DEFINITION. The Register Codec (40_register_codec.md R110 to R114, R119): each operation is one step, accepted in
`IDLE`, and writes no register. -/

namespace Sys2Proof.Machine

/-- `ENCODE` (R110). -/
def execEncode (op : BitVec 8) (frame : BitVec 16) (checksum : BitVec 32) (result : BitVec 8) (s : State) : Out :=
  accept s (complete { status := .ok, qReg := some (Xr.pack op frame checksum result) } s)

/-- `DECODE_RESULT` (R111): the low byte, read signed. -/
def execDecodeResult (reg : Xr) (s : State) : Out :=
  accept s (complete { status := .ok, qRc := some (asI8 (Xr.result reg)) } s)

/-- `DECODE_CHECKSUM` (R112). -/
def execDecodeChecksum (reg : Xr) (s : State) : Out :=
  accept s (complete { status := .ok, qCsum := some (Xr.checksum reg) } s)

/-- `DECODE_OP` (R113). -/
def execDecodeOp (reg : Xr) (s : State) : Out :=
  accept s (complete { status := .ok, qOp := some (Xr.op reg) } s)

/-- `DECODE_FRAME` (R114). -/
def execDecodeFrame (reg : Xr) (s : State) : Out :=
  accept s (complete { status := .ok, qFrame := some (Xr.frame reg) } s)

/-- The pseudo-operation `DECODE` (R101, R115): the four extractors on one operand. -/
def pseudoDecode (reg : Xr) : List Instr :=
  [.decodeOp reg, .decodeFrame reg, .decodeChecksum reg, .decodeResult reg]

/-- The pseudo-operation `RDFRAME f` (R101). -/
def pseudoRdframe (c : Config) (f : BitVec 16) : Instr := .encode c.opReadFrame f 0 0

/-- The pseudo-operation `WRFRAME f, c` (R101). -/
def pseudoWrframe (c : Config) (f : BitVec 16) (cs : BitVec 32) : Instr := .encode c.opWriteFrame f cs 0

/-- The pseudo-operation `INIT k, k2` (R101). -/
def pseudoInit (c : Config) (k : BitVec 16) (k2 : BitVec 32) : Instr := .encode c.opInit k k2 0

/-- The pseudo-operation `ZERO_BLOCK k, k2` (R101). -/
def pseudoZeroBlock (c : Config) (k : BitVec 16) (k2 : BitVec 32) : Instr := .encode c.opZeroBlock k k2 0

/-- The pseudo-operation `POWOFF k, k2` (R101). -/
def pseudoPowoff (c : Config) (k : BitVec 16) (k2 : BitVec 32) : Instr := .encode c.opPowerOff k k2 0

end Sys2Proof.Machine
end

