-- ==== Sys2Proof/Machine/Transfer.lean ====
section
/-! DEFINITION. The Frame Transfer Engine's operations `READ_FRAME` and `WRITE_FRAME` (42_frame_transfer.md R141, R151):
their acceptance, transitions T4 and T10. The rest of each is the sequencer's. -/

namespace Sys2Proof.Machine

/-- `READ_FRAME` (R141, T4): no range check and no power check (R53). -/
def execReadFrame (frame : BitVec 16) (s : State) : Out :=
  acceptTransfer s (issueRead { s with fidx := frame, attempt := 0 })

/-- `WRITE_FRAME` (R151, T10): `FBUF` is loaded at acceptance and its checksum asked for. -/
def execWriteFrame (frame : BitVec 16) (data : Frame) (s : State) : Out :=
  acceptTransfer s
    (callSig data { s with fidx := frame, fbuf := data, attempt := 0, phase := .wrSig })

end Sys2Proof.Machine
end

