-- ==== Sys2Proof/Machine/Dispatch.lean ====
section
/-! DEFINITION. One arm per instruction: a direct call of its meaning. -/

namespace Sys2Proof.Machine

def exec (i : Instr) (s : State) : Host.Outcome State Fault Refusal :=
  match i with
  | .init key key2 result => Sys2Proof.Machine.execInit key key2 result s
  | .zeroBlock key key2 result => Sys2Proof.Machine.execZeroBlock key key2 result s
  | .rdframe frame checksum result => Sys2Proof.Machine.execRdframe frame checksum result s
  | .wrframe frame checksum result => Sys2Proof.Machine.execWrframe frame checksum result s
  | .powoff key key2 result => Sys2Proof.Machine.execPowoff key key2 result s
  | .encode op frame checksum result => Sys2Proof.Machine.execEncode op frame checksum result s
  | .decodeResult reg => Sys2Proof.Machine.execDecodeResult reg s
  | .decodeChecksum reg => Sys2Proof.Machine.execDecodeChecksum reg s
  | .decodeOp reg => Sys2Proof.Machine.execDecodeOp reg s
  | .decodeFrame reg => Sys2Proof.Machine.execDecodeFrame reg s
  | .checksum data => Sys2Proof.Machine.execChecksum data s
  | .readFrame frame => Sys2Proof.Machine.execReadFrame frame s
  | .writeFrame frame data => Sys2Proof.Machine.execWriteFrame frame data s

end Sys2Proof.Machine
end

