-- ==== Sys2Proof/Machine/Reset.lean ====
section
/-! DEFINITION. The reset event (70_reset_and_hazards.md R230, R231). -/

namespace Sys2Proof.Machine

/-- The bus answers left after a reset: the answer to a transaction that was outstanding is discarded (R231). -/
def busAnswersAfterReset (s : State) : List BusAnswer :=
  match s.phase with
  | .idle => s.busAnswers
  | .ckSig => s.busAnswers
  | .rdBus => s.busAnswers.tail
  | .rdSig => s.busAnswers
  | .wrSig => s.busAnswers
  | .wrBus => s.busAnswers.tail

/-- The signature answers left after a reset: the answer to a call that was outstanding is discarded (R231). -/
def sigAnswersAfterReset (s : State) : List SigAnswer :=
  match s.phase with
  | .idle => s.sigAnswers
  | .ckSig => s.sigAnswers.tail
  | .rdBus => s.sigAnswers
  | .rdSig => s.sigAnswers.tail
  | .wrSig => s.sigAnswers.tail
  | .wrBus => s.sigAnswers

/-- The reset event (R230, R231): the registers as R38 says, an operation in progress dropped without a completion. -/
def resetEvent (s : State) : State :=
  { s with
    phase := .idle
    attempt := 0
    status := .ok
    fidx := Config.resetFidx (s.resets + 1)
    fbuf := resetFbuf s.cfg.frameSize (s.resets + 1)
    csum := Config.resetCsum (s.resets + 1)
    xcmd := Config.resetXcmd (s.resets + 1)
    xrsp := Config.resetXrsp (s.resets + 1)
    busAnswers := busAnswersAfterReset s
    sigAnswers := sigAnswersAfterReset s
    resetLine := false
    resets := s.resets + 1 }

end Sys2Proof.Machine
end

