-- ==== Sys2Proof/Machine/Control.lean ====
section
/-! DEFINITION. What happens next: the choice between refusing the configuration, reset, the busy sequencer, and the next
thing presented (42_frame_transfer.md R160, 70_reset_and_hazards.md R231). -/

namespace Sys2Proof.Machine

/-- Run what was presented: an instruction by its meaning, anything else as `rejected` says. -/
def runPresented (x : Wire) (s : State) : Out :=
  match decode s.cfg x with
  | .ok i => exec i s
  | .error e => rejected e x s

/-- A configuration that breaks R8 is refused; reset comes before everything else (R231); a busy unit takes the answer its
phase waits for (R160); an idle unit runs what is presented next (R92), or waits. -/
def advance (s : State) : Out :=
  if s.cfg.wf = false then .refused .badConfiguration
  else if s.resetLine then .next (resetEvent s)
  else if s.phase ≠ .idle then .next (sequencer s)
  else
    match fetch s with
    | none => .next (idleWait s)
    | some (x, t) => runPresented x t

end Sys2Proof.Machine
end

