-- ==== Sys2Proof/Machine/Step.lean ====
section
/-! DEFINITION. One step of the machine. -/

namespace Sys2Proof.Machine

/-- One step of the machine (`advance`). -/
def step (s : State) : Host.Outcome State Fault Refusal :=
  advance s

/-- The state with a row of the opcode table presented to an idle unit, first in the inbox, so that the next step runs it
(log 7). -/
def State.withFetchWord (s : State) (nbits w : Nat) : State :=
  match tableWire nbits w with
  | none => s
  | some x => { s with phase := .idle, resetLine := false, extCall := none, inbox := x :: s.inbox }

end Sys2Proof.Machine
end

