-- ==== Sys2Proof/Safety.lean ====
section
/-! DEFINITION. The words the claims use: a unit that runs, a unit ready for a request, the invariant of every step, what
two runs must share, and the bus the spec calls faithful (43_bus_commands.md R188). -/

namespace Sys2Proof.Machine

/-- The parameters meet R8 and reset is not asserted. -/
abbrev Running (s : State) : Prop :=
  s.cfg.wf = true ∧ s.resetLine = false

/-- The unit accepts what is presented next: it is `IDLE` (R92) and no other master waits for the bus (R240). -/
abbrev Ready (s : State) : Prop :=
  Running s ∧ s.phase = .idle ∧ s.extCall = none

/-- `k` steps of the machine. -/
def run (k : Nat) (s : State) : Out :=
  Host.Core.run Sys2Proof.core k s

/-- The call is a bus transaction of the unit. -/
def Call.isBus : Call → Bool
  | .bus _ _ _ => true
  | .sig _ => false
  | .other _ => false

/-- The call is one of the signature primitive. -/
def Call.isSig : Call → Bool
  | .bus _ _ _ => false
  | .sig _ => true
  | .other _ => false

/-- The command word of a bus transaction of the unit. -/
def Call.word : Call → Option Xr
  | .bus w _ _ => some w
  | .sig _ => none
  | .other _ => none

/-- The command words the unit has sent, oldest first. -/
def commandWords (s : State) : List Xr :=
  s.calls.filterMap Call.word

/-- How many signature calls the unit has made. -/
def sigCalls (s : State) : Nat :=
  s.calls.countP Call.isSig

/-- What the registers hold in each phase (R23, R25, R26). -/
def PhaseInv (s : State) : Prop :=
  match s.phase with
  | .idle => True
  | .ckSig => True
  | .rdBus => 1 ≤ s.attempt ∧ s.xcmd = readCommand s
  | .rdSig => 1 ≤ s.attempt ∧ s.xcmd = readCommand s
  | .wrSig => s.attempt = 0
  | .wrBus => 1 ≤ s.attempt ∧ s.xcmd = writeCommand s ∧ s.csum = ck s.cfg s.fbuf

/-- The invariant of the machine. -/
structure Inv (s : State) : Prop where
  /-- The parameters meet R8. -/
  cfg : s.cfg.wf = true
  /-- `ATTEMPT` never exceeds `RETRY_BUDGET` (R25). -/
  attempt : s.attempt ≤ s.cfg.retryBudget
  /-- `FBUF` is one frame, in canonical form (R22). -/
  fbuf : Frame.wf s.cfg.frameSize s.fbuf = true
  /-- The operand of `CHECKSUM` is one frame (R130). -/
  ckData : Frame.wf s.cfg.frameSize s.ckData = true
  /-- Every buffer the bus will return is one frame (R181). -/
  answers : ∀ a ∈ s.busAnswers, Frame.wf s.cfg.frameSize a.buffer = true
  /-- Every delivered `Q_DATA` is one frame (R91). -/
  delivered : ∀ k ∈ s.completions, ∀ B, k.qData = some B → Frame.wf s.cfg.frameSize B = true
  /-- No other master waits for the bus while the unit is busy (R240). -/
  exclusive : s.phase ≠ .idle → s.extCall = none
  /-- The registers of the phase. -/
  phase : PhaseInv s

/-- Two states that differ at most in what an earlier operation left in the unit's registers (R36): the same parameters,
phase, inputs and completions, and the same command words sent. -/
structure SameOutside (s t : State) : Prop where
  cfg : s.cfg = t.cfg
  phase : s.phase = t.phase
  inbox : s.inbox = t.inbox
  busAnswers : s.busAnswers = t.busAnswers
  sigAnswers : s.sigAnswers = t.sigAnswers
  resetLine : s.resetLine = t.resetLine
  extCall : s.extCall = t.extCall
  completions : s.completions = t.completions
  commandWords : commandWords s = commandWords t

/-- The store of the bus of R188. -/
abbrev Store := BitVec 16 → Frame

/-- The store with one frame replaced. -/
def Store.set (M : Store) (f : BitVec 16) (B : Frame) : Store :=
  fun g => if g = f then B else M g

/-- `FaithfulBus` (R188): the answer `a` to a transaction of the unit, and the store after it. A premise, never a
property of the unit. -/
def FaithfulAnswer (c : Config) (M M' : Store) (call : Call) (a : BusAnswer) : Prop :=
  match call with
  | .bus w B .wr =>
    Xr.op w = c.opWriteFrame →
      M' = M.set (Xr.frame w) B ∧ Xr.checksum a.response = ck c B ∧ responseFails c a.response = false
  | .bus w _ .rd =>
    Xr.op w = c.opReadFrame →
      M' = M ∧ a.buffer = M (Xr.frame w) ∧ Xr.checksum a.response = ck c (M (Xr.frame w)) ∧
        responseFails c a.response = false
  | .sig _ => True
  | .other _ => True

end Sys2Proof.Machine
end

