-- ==== Sys2Proof/Certificates/Slice0/Obligations.lean ====
section
/-! DEFINITION. The statements of this row. Each docstring names the rule of spec/ it formalises; log <n> is
notes/assumptions/<n>.md. -/

open Sys2Proof Sys2Proof.Machine

/-! ### The XR format and the encodings -/

/-- R81: packing shifts each field to its place, and is the concatenation of the four fields. -/
def Obligations.PackingIsConcatenationOfFields : Prop :=
  ∀ (op : BitVec 8) (frame : BitVec 16) (cs : BitVec 32) (rc : BitVec 8),
    Xr.pack op frame cs rc =
      (op.zeroExtend 64 <<< 56) ||| (frame.zeroExtend 64 <<< 40) ||| (cs.zeroExtend 64 <<< 8) ||| rc.zeroExtend 64 ∧
    Xr.pack op frame cs rc = op ++ frame ++ cs ++ rc ∧
    (Xr.pack op frame cs rc).toNat = op.toNat * 2 ^ 56 + frame.toNat * 2 ^ 40 + cs.toNat * 2 ^ 8 + rc.toNat

/-- R82: the four fields are zero-extended bit slices of the register. -/
def Obligations.FieldsAreShiftedMaskedSlices : Prop :=
  ∀ w : Xr,
    (Xr.op w).zeroExtend 64 = (w >>> 56) &&& 0xFF#64 ∧
    (Xr.frame w).zeroExtend 64 = (w >>> 40) &&& 0xFFFF#64 ∧
    (Xr.checksum w).zeroExtend 64 = (w >>> 8) &&& 0xFFFFFFFF#64 ∧
    (Xr.result w).zeroExtend 64 = w &&& 0xFF#64 ∧
    Xr.op w = w.extractLsb 63 56 ∧ Xr.frame w = w.extractLsb 55 40 ∧ Xr.checksum w = w.extractLsb 39 8 ∧
    Xr.result w = w.extractLsb 7 0

/-- R117: `ENCODE` after the four extractors is the identity, and every word is the encoding of exactly one tuple. -/
def Obligations.EncodeIsBijective : Prop :=
  (∀ reg : Xr,
    Xr.pack (Xr.op reg) (Xr.frame reg) (Xr.checksum reg) (asU8 (asI8 (Xr.result reg))) = reg) ∧
  Function.Bijective
    (fun p : BitVec 8 × BitVec 16 × BitVec 32 × BitVec 8 => Xr.pack p.1 p.2.1 p.2.2.1 p.2.2.2)

/-- Decoding an instruction's encoding gives it back, every operand at every value (R94, R95; the request ports an
operation does not use hold zero, log 8). -/
def Obligations.DecodeAfterEncodeIsIdentity : Prop :=
  ∀ (c : Config) (i : Instr), c.wf = true → WellFormed c i = true → decode c (encode c i) = .ok i

/-- What decodes to a bus command word is the encoding of what it decodes to: no bit of a command word is dropped (R82,
R94). -/
def Obligations.EncodeAfterDecodeCommandIsIdentity : Prop :=
  ∀ (c : Config) (w : Xr) (i : Instr), decode c (.command w) = .ok i → encode c i = .command w

/-- R99: the `op` byte and nothing else tells the operation. -/
def Obligations.OpByteAloneSelectsCommand : Prop :=
  ∀ (c : Config) (w v : Xr), Xr.op w = Xr.op v →
    (decode c (.command w)).map Instr.mnemonic = (decode c (.command v)).map Instr.mnemonic

/-- R90: each request uses the operands R95 lists and ignores the rest. -/
def Obligations.UnlistedRequestOperandsAreIgnored : Prop :=
  ∀ (c : Config) (r q : Request), r.cmd = q.cmd →
    (r.cmd = 0 → r.aOp = q.aOp ∧ r.aFrame = q.aFrame ∧ r.aCsum = q.aCsum ∧ r.aRc = q.aRc) →
    (r.cmd = 1 ∨ r.cmd = 2 ∨ r.cmd = 3 ∨ r.cmd = 4 → r.aReg = q.aReg) →
    (r.cmd = 5 → r.aData = q.aData) →
    (r.cmd = 6 → r.aFrame = q.aFrame) →
    (r.cmd = 7 → r.aFrame = q.aFrame ∧ r.aData = q.aData) →
    decode c (.request r) = decode c (.request q)

/-- Four words of the opcode table decode as the table says, and the reserved code 9 to nothing, under the spec's defaults
(R93, R94, R95, log 3). That a word of at most 8 bits is a `CMD` code with every operand port zero is the model's choice
(log 8). -/
def Obligations.TableWordsDecode : Prop :=
  decodeTableWord 64 0x0000000000000000 = some (.init 0 0 0) ∧
  decodeTableWord 64 0x0200050000000000 = some (.rdframe 5 0 0) ∧
  decodeTableWord 64 0x030007C0DE021400 = some (.wrframe 7 0xC0DE0214 0) ∧
  decodeTableWord 8 6 = some (.readFrame 0) ∧
  decodeTableWord 8 9 = none

/-- R93: a request with a reserved code has no instruction, and the machine refuses it. -/
def Obligations.ReservedCmdIsRefused : Prop :=
  ∀ (s : State) (r : Request) (rest : List Wire), Ready s → s.inbox = .request r :: rest → 8 ≤ r.cmd.toNat →
    decode s.cfg (.request r) = .error (.reservedCmd r.cmd) ∧
    step s = .refused (.reservedCmd r.cmd)

/-! ### The step -/

/-- A ready unit's step is the meaning of the instruction that is presented, with the presented item taken from the
inbox (R92, R95, log 7). -/
def Obligations.StepRunsDecodedInstruction : Prop :=
  ∀ (s : State) (x : Wire) (rest : List Wire) (i : Instr), Ready s → s.inbox = x :: rest →
    decode s.cfg x = .ok i → step s = exec i { s with inbox := rest }

/-- The command word in `XCMD` is the instruction a unit that waits at the bus has there: it decodes to the attempt's
`RDFRAME` or `WRFRAME` (R26, R190, R191), and the step is that instruction's meaning. That executing the outstanding word
is the unit taking the bus's answer is the model's choice (log 10). -/
def Obligations.OutstandingCommandWordIsExecuted : Prop :=
  ∀ s : State, Inv s → Running s →
    (s.phase = .rdBus →
      decode s.cfg (.command s.xcmd) = .ok (.rdframe s.fidx 0 0) ∧ step s = exec (.rdframe s.fidx 0 0) s) ∧
    (s.phase = .wrBus →
      decode s.cfg (.command s.xcmd) = .ok (.wrframe s.fidx s.csum 0) ∧ step s = exec (.wrframe s.fidx s.csum 0) s)

/-- R8: a configuration that breaks a constraint is refused. -/
def Obligations.BrokenConfigurationIsRefused : Prop :=
  ∀ s : State,
    (¬ [s.cfg.opInit, s.cfg.opZeroBlock, s.cfg.opReadFrame, s.cfg.opWriteFrame, s.cfg.opPowerOff].Nodup ∨
      s.cfg.retryBudget < 1 ∨ s.cfg.sigLen < 4 ∨ s.cfg.frameSize < 1 ∨ 2 ^ 16 < s.cfg.blockCapacityFrames) →
    step s = .refused .badConfiguration

/-- A request is not accepted while `BUSY`: it has no step (R92; that `exec` refuses it is log 12). A busy unit's steps
leave what waits to be presented alone: that such an item is kept, in the inbox, is the model's choice (log 7). -/
def Obligations.RequestWhileBusyHasNoStep : Prop :=
  (∀ (s : State) (i : Instr), i.isRequest = true → s.phase ≠ .idle → exec i s = .refused .busy) ∧
  (∀ s t : State, Running s → s.phase ≠ .idle → step s = .next t → t.inbox = s.inbox)

/-- An idle unit with nothing presented waits (R230: "after reset the unit waits for its first request"; the waiting step
that changes nothing is the model's, log 7). -/
def Obligations.IdleUnitWaits : Prop :=
  ∀ s : State, Ready s → s.inbox = [] → step s = .next s

/-- R210: while the awaited neighbour does not answer, nothing changes; no status, no completion. -/
def Obligations.UnansweredCallWaits : Prop :=
  ∀ s : State, Running s →
    (((s.phase = .rdBus ∨ s.phase = .wrBus) ∧ s.busAnswers = []) ∨
     ((s.phase = .ckSig ∨ s.phase = .rdSig ∨ s.phase = .wrSig) ∧ s.sigAnswers = [])) →
    step s = .next s

/-- The parameters are fixed: no step changes them (R34, log 1). -/
def Obligations.StepsKeepConfiguration : Prop :=
  ∀ s t : State, step s = .next t → t.cfg = s.cfg

/-! ### The Register Codec -/

/-- R110: `CMD` = 0 is `ENCODE`; it completes `OK` with the packed word and changes nothing but the completions. -/
def Obligations.EncodeCompletes : Prop :=
  (∀ (s : State) (op : BitVec 8) (frame : BitVec 16) (cs : BitVec 32) (rc : BitVec 8), s.phase = .idle →
    exec (.encode op frame cs rc) s =
      .next { s with completions := s.completions ++ [{ status := .ok, qReg := some (op ++ frame ++ cs ++ rc) }] }) ∧
  (∀ (c : Config) (r : Request), r.cmd = 0 → decode c (.request r) = .ok (.encode r.aOp r.aFrame r.aCsum r.aRc))

/-- R111: `CMD` = 1 is `DECODE_RESULT`; it completes `OK` with the low byte read as a two's-complement number and changes nothing but the
completions. -/
def Obligations.DecodeResultCompletes : Prop :=
  (∀ (s : State) (reg : Xr), s.phase = .idle →
    exec (.decodeResult reg) s =
      .next { s with completions := s.completions ++ [{ status := .ok, qRc := some (reg.extractLsb 7 0).toInt }] }) ∧
  (∀ (c : Config) (r : Request), r.cmd = 1 → decode c (.request r) = .ok (.decodeResult r.aReg))

/-- R112: `CMD` = 2 is `DECODE_CHECKSUM`; it completes `OK` with bits 39:8 and changes nothing but the completions. -/
def Obligations.DecodeChecksumCompletes : Prop :=
  (∀ (s : State) (reg : Xr), s.phase = .idle →
    exec (.decodeChecksum reg) s =
      .next { s with completions := s.completions ++ [{ status := .ok, qCsum := some (reg.extractLsb 39 8) }] }) ∧
  (∀ (c : Config) (r : Request), r.cmd = 2 → decode c (.request r) = .ok (.decodeChecksum r.aReg))

/-- R113: `CMD` = 3 is `DECODE_OP`; it completes `OK` with bits 63:56 and changes nothing but the completions. -/
def Obligations.DecodeOpCompletes : Prop :=
  (∀ (s : State) (reg : Xr), s.phase = .idle →
    exec (.decodeOp reg) s =
      .next { s with completions := s.completions ++ [{ status := .ok, qOp := some (reg.extractLsb 63 56) }] }) ∧
  (∀ (c : Config) (r : Request), r.cmd = 3 → decode c (.request r) = .ok (.decodeOp r.aReg))

/-- R114: `CMD` = 4 is `DECODE_FRAME`; it completes `OK` with bits 55:40 and changes nothing but the completions. -/
def Obligations.DecodeFrameCompletes : Prop :=
  (∀ (s : State) (reg : Xr), s.phase = .idle →
    exec (.decodeFrame reg) s =
      .next { s with completions := s.completions ++ [{ status := .ok, qFrame := some (reg.extractLsb 55 40) }] }) ∧
  (∀ (c : Config) (r : Request), r.cmd = 4 → decode c (.request r) = .ok (.decodeFrame r.aReg))

/-- R116: what `ENCODE` delivers, the four extractors take apart again: a fresh idle unit that is presented `ENCODE` and
then the four extractors on its result delivers the four operands, `result` as a bit pattern. -/
def Obligations.DecodeAfterEncodeDeliversOperands : Prop :=
  ∀ (s : State) (op : BitVec 8) (frame : BitVec 16) (cs : BitVec 32) (rc : BitVec 8), s.phase = .idle →
    ∃ (w : Xr) (q : Int) (t1 t2 t3 t4 t5 : State),
      exec (.encode op frame cs rc) s = .next t1 ∧
      exec (.decodeOp w) t1 = .next t2 ∧ exec (.decodeFrame w) t2 = .next t3 ∧
      exec (.decodeChecksum w) t3 = .next t4 ∧ exec (.decodeResult w) t4 = .next t5 ∧
      asU8 q = rc ∧
      t5.completions = s.completions ++
        [{ status := .ok, qReg := some w }, { status := .ok, qOp := some op }, { status := .ok, qFrame := some frame },
         { status := .ok, qCsum := some cs }, { status := .ok, qRc := some q }]

/-- R101: the pseudo-operations. Each bus-word mnemonic delivers, as `ENCODE`, the word that encodes its instruction; and
`DECODE` is the four extractors, one after another. -/
def Obligations.PseudoOperationsExpand : Prop :=
  ∀ (s : State), s.phase = .idle →
    (∀ (c : Config) (f k : BitVec 16) (cs k2 : BitVec 32),
      (∀ p ∈ [(pseudoRdframe c f, Instr.rdframe f 0 0), (pseudoWrframe c f cs, .wrframe f cs 0),
          (pseudoInit c k k2, .init k k2 0), (pseudoZeroBlock c k k2, .zeroBlock k k2 0),
          (pseudoPowoff c k k2, .powoff k k2 0)],
        ∃ w, encode c p.2 = .command w ∧
          exec p.1 s = .next { s with completions := s.completions ++ [{ status := .ok, qReg := some w }] })) ∧
    (∀ (reg : Xr) (rest : List Wire), Ready s → s.inbox = (pseudoDecode reg).map (encode s.cfg) ++ rest →
      run 4 s = .next { s with
        inbox := rest
        completions := s.completions ++
          [{ status := .ok, qOp := some (Xr.op reg) }, { status := .ok, qFrame := some (Xr.frame reg) },
           { status := .ok, qCsum := some (Xr.checksum reg) },
           { status := .ok, qRc := some (asI8 (Xr.result reg)) }] })

/-! ### The Checksum Adapter -/

/-- The checksum is made of signature bytes 0 to 3 in the order `CK_ORDER`, and the bytes after them are discarded
(R130). -/
def Obligations.ChecksumTruncatesSignature : Prop :=
  ∀ (c : Config) (f : Frame) (b0 b1 b2 b3 : Byte) (more : List Byte), signature c f = b0 :: b1 :: b2 :: b3 :: more →
    (c.ckOrder = .little → ck c f = b3 ++ b2 ++ b1 ++ b0) ∧
    (c.ckOrder = .big → ck c f = b0 ++ b1 ++ b2 ++ b3)

/-- R133: equal byte strings have equal signatures, and so equal checksums. -/
def Obligations.EqualBytesHaveEqualChecksums : Prop :=
  ∀ (c : Config) (f g : Frame), Frame.wf c.frameSize f = true → Frame.wf c.frameSize g = true →
    (∀ i, i < c.frameSize → f.byteAt i = g.byteAt i) → signature c f = signature c g ∧ ck c f = ck c g

/-- R134: `ck` is not injective, whatever `SIG` is, as soon as a frame has more than four bytes. -/
def Obligations.DistinctFramesShareChecksum : Prop :=
  ∀ c : Config, 4 < c.frameSize →
    ∃ f g : Frame, Frame.wf c.frameSize f = true ∧ Frame.wf c.frameSize g = true ∧ f ≠ g ∧ ck c f = ck c g

/-- `CHECKSUM` is accepted (T1): one signature call on the operand; `FBUF`, `CSUM` and every other register but `PHASE`
keep their values (R29, R130). -/
def Obligations.ChecksumIsAccepted : Prop :=
  ∀ (s : State) (B : Frame), s.phase = .idle →
    exec (.checksum B) s = .next { s with phase := .ckSig, ckData := B, calls := s.calls ++ [.sig B] }

/-- R130: the whole of `CHECKSUM`. From acceptance, two steps complete it: `CHECKSUM_UNAVAILABLE` without a result when
the signature call fails, else `OK` with bytes 0 to 3 of the operand's signature in the order `CK_ORDER`, the bytes after
them discarded; one signature call, no bus transaction, no register but `PHASE` and `STATUS` changed. -/
def Obligations.ChecksumCompletes : Prop :=
  ∀ (s : State) (B : Frame) (rest : List Wire) (a : SigAnswer) (more : List SigAnswer) (b0 b1 b2 b3 : Byte)
    (tail : List Byte), Ready s → Frame.wf s.cfg.frameSize B = true → s.inbox = encode s.cfg (.checksum B) :: rest →
    s.sigAnswers = a :: more → signature s.cfg B = b0 :: b1 :: b2 :: b3 :: tail →
    run 2 s = .next { s with
      inbox := rest, sigAnswers := more, ckData := B, calls := s.calls ++ [.sig B]
      status := if a = .fail then .checksumUnavailable else .ok
      completions := s.completions ++
        [if a = .fail then { status := .checksumUnavailable }
         else { status := .ok, qCsum := some (if s.cfg.ckOrder = .little then b3 ++ b2 ++ b1 ++ b0
                                               else b0 ++ b1 ++ b2 ++ b3) }] }

/-! ### The Frame Transfer Engine, transition by transition -/

/-- `READ_FRAME` is accepted (T4): the first attempt's command word goes out, whatever the index (R53); nothing but
`PHASE`, `ATTEMPT`, `FIDX` and `XCMD` changes. -/
def Obligations.ReadFrameIsAccepted : Prop :=
  ∀ (s : State) (f : BitVec 16), s.phase = .idle → s.extCall = none → 1 ≤ s.cfg.retryBudget →
    exec (.readFrame f) s = .next { s with
      phase := .rdBus, fidx := f, attempt := 1, xcmd := Xr.pack s.cfg.opReadFrame f 0 0
      calls := s.calls ++ [.bus (Xr.pack s.cfg.opReadFrame f 0 0) s.fbuf .rd] }

/-- `WRITE_FRAME` is accepted (T10): `FIDX` and `FBUF` are loaded and the signature primitive is called on the bytes;
nothing but `PHASE`, `ATTEMPT`, `FIDX` and `FBUF` changes, and no bus transaction is made. -/
def Obligations.WriteFrameIsAccepted : Prop :=
  ∀ (s : State) (f : BitVec 16) (B : Frame), s.phase = .idle → s.extCall = none →
    exec (.writeFrame f B) s = .next { s with
      phase := .wrSig, fidx := f, fbuf := B, attempt := 0, calls := s.calls ++ [.sig B] }

/-- T5: the bus's word goes to `XRSP` and its bytes replace `FBUF`, whole; they go to the signature primitive. That is
also what `RDFRAME` does when it is the word the unit has outstanding, which is the model's choice (log 10). -/
def Obligations.ReadResponseIsTaken : Prop :=
  ∀ (s : State) (a : BusAnswer) (rest : List BusAnswer), Running s → s.phase = .rdBus → s.busAnswers = a :: rest →
    step s = .next { s with
      phase := .rdSig, busAnswers := rest, xrsp := a.response, fbuf := a.buffer, calls := s.calls ++ [.sig a.buffer] } ∧
    (∀ f cs r, s.xcmd = Xr.pack s.cfg.opReadFrame f cs r →
      exec (.rdframe f cs r) s = .next { s with
        phase := .rdSig, busAnswers := rest, xrsp := a.response, fbuf := a.buffer
        calls := s.calls ++ [.sig a.buffer] })

/-- T6 to T9: the signature fails, then a mismatch (retried, or exhausted when `ATTEMPT` = `RETRY_BUDGET`), then a failing
result, then `OK`: the first that holds decides (R142 to R145, R207). -/
def Obligations.ReadAttemptIsJudged : Prop :=
  ∀ (s : State) (a : SigAnswer) (rest : List SigAnswer), Running s → s.phase = .rdSig → s.sigAnswers = a :: rest →
    (a = .fail →
      step s = .next { s with
        phase := .idle, sigAnswers := rest, status := .checksumUnavailable
        completions := s.completions ++ [{ status := .checksumUnavailable }] }) ∧
    (a = .ok → ck s.cfg s.fbuf ≠ Xr.checksum s.xrsp → s.attempt = s.cfg.retryBudget →
      step s = .next { s with
        phase := .idle, sigAnswers := rest, csum := ck s.cfg s.fbuf, status := .checksumExhausted
        completions := s.completions ++ [{ status := .checksumExhausted }] }) ∧
    (a = .ok → ck s.cfg s.fbuf ≠ Xr.checksum s.xrsp → s.attempt ≠ s.cfg.retryBudget →
      step s = .next { s with
        phase := .rdBus, sigAnswers := rest, csum := ck s.cfg s.fbuf, attempt := s.attempt + 1
        xcmd := Xr.pack s.cfg.opReadFrame s.fidx 0 0
        calls := s.calls ++ [.bus (Xr.pack s.cfg.opReadFrame s.fidx 0 0) s.fbuf .rd] }) ∧
    (a = .ok → ck s.cfg s.fbuf = Xr.checksum s.xrsp → resultFail s.cfg (asI8 (Xr.result s.xrsp)) = true →
      step s = .next { s with
        phase := .idle, sigAnswers := rest, csum := ck s.cfg s.fbuf, status := .deviceError
        completions := s.completions ++ [{ status := .deviceError }] }) ∧
    (a = .ok → ck s.cfg s.fbuf = Xr.checksum s.xrsp → resultFail s.cfg (asI8 (Xr.result s.xrsp)) = false →
      step s = .next { s with
        phase := .idle, sigAnswers := rest, csum := ck s.cfg s.fbuf, status := .ok
        completions := s.completions ++ [{ status := .ok, qData := some s.fbuf }] })

/-- T11, T12: the expected checksum of a write is computed once, and the first attempt's command word goes out. -/
def Obligations.WriteChecksumIsTaken : Prop :=
  ∀ (s : State) (a : SigAnswer) (rest : List SigAnswer), Running s → s.phase = .wrSig → s.sigAnswers = a :: rest →
    (a = .fail →
      step s = .next { s with
        phase := .idle, sigAnswers := rest, status := .checksumUnavailable
        completions := s.completions ++ [{ status := .checksumUnavailable }] }) ∧
    (a = .ok → s.attempt ≠ s.cfg.retryBudget →
      step s = .next { s with
        phase := .wrBus, sigAnswers := rest, csum := ck s.cfg s.fbuf, attempt := s.attempt + 1
        xcmd := Xr.pack s.cfg.opWriteFrame s.fidx (ck s.cfg s.fbuf) 0
        calls := s.calls ++ [.bus (Xr.pack s.cfg.opWriteFrame s.fidx (ck s.cfg s.fbuf) 0) s.fbuf .wr] })

/-- T13 to T15: the echo is compared with what was sent; only an equal echo's result is looked at; a differing one is
retried, or exhausted when `ATTEMPT` = `RETRY_BUDGET` (R154, R155, R207). That is also what `WRFRAME` does when it is the
word the unit has outstanding, which is the model's choice (log 10). -/
def Obligations.WriteAttemptIsJudged : Prop :=
  ∀ (s : State) (a : BusAnswer) (rest : List BusAnswer), Running s → s.phase = .wrBus → s.busAnswers = a :: rest →
    (∀ f cs r, s.xcmd = Xr.pack s.cfg.opWriteFrame f cs r → exec (.wrframe f cs r) s = step s) ∧
    (Xr.checksum a.response ≠ s.csum → s.attempt = s.cfg.retryBudget →
      step s = .next { s with
        phase := .idle, busAnswers := rest, xrsp := a.response, status := .checksumExhausted
        completions := s.completions ++ [{ status := .checksumExhausted }] }) ∧
    (Xr.checksum a.response ≠ s.csum → s.attempt ≠ s.cfg.retryBudget →
      step s = .next { s with
        phase := .wrBus, busAnswers := rest, xrsp := a.response, attempt := s.attempt + 1
        xcmd := Xr.pack s.cfg.opWriteFrame s.fidx s.csum 0
        calls := s.calls ++ [.bus (Xr.pack s.cfg.opWriteFrame s.fidx s.csum 0) s.fbuf .wr] }) ∧
    (Xr.checksum a.response = s.csum → resultFail s.cfg (asI8 (Xr.result a.response)) = true →
      step s = .next { s with
        phase := .idle, busAnswers := rest, xrsp := a.response, status := .deviceError
        completions := s.completions ++ [{ status := .deviceError }] }) ∧
    (Xr.checksum a.response = s.csum → resultFail s.cfg (asI8 (Xr.result a.response)) = false →
      step s = .next { s with
        phase := .idle, busAnswers := rest, xrsp := a.response, status := .ok
        completions := s.completions ++ [{ status := .ok }] })

/-! ### The operations as functions of the answers -/

/-- R161: `READ_FRAME f` as a function of the answers. First part: `bad` are the attempts before the deciding one, each
mismatching; the deciding one `(a, g)` has a failing signature or a matching checksum. Second part: every attempt of the
budget mismatches. -/
def Obligations.ReadFrameAsFunctionOfAnswers : Prop :=
  ∀ (s : State) (f : BitVec 16) (rest : List Wire) (bad : List BusAnswer) (more : List BusAnswer)
    (gs : List SigAnswer), Ready s → s.inbox = encode s.cfg (.readFrame f) :: rest →
    (∀ b ∈ bad, ck s.cfg b.buffer ≠ Xr.checksum b.response) →
    (∀ (a : BusAnswer) (g : SigAnswer), bad.length < s.cfg.retryBudget →
      (g = .fail ∨ ck s.cfg a.buffer = Xr.checksum a.response) →
      s.busAnswers = bad ++ a :: more → s.sigAnswers = List.replicate bad.length .ok ++ g :: gs →
      ∃ t, run (1 + 2 * (bad.length + 1)) s = .next t ∧ t.phase = .idle ∧
        t.completions = s.completions ++
          [if g = .fail then { status := .checksumUnavailable }
           else if resultFail s.cfg (asI8 (Xr.result a.response)) = true then { status := .deviceError }
           else { status := .ok, qData := some a.buffer }] ∧
        commandWords t = commandWords s ++ List.replicate (bad.length + 1) (Xr.pack s.cfg.opReadFrame f 0 0) ∧
        sigCalls t = sigCalls s + (bad.length + 1) ∧ t.busAnswers = more ∧ t.sigAnswers = gs ∧ t.inbox = rest) ∧
    (bad.length = s.cfg.retryBudget →
      s.busAnswers = bad ++ more → s.sigAnswers = List.replicate bad.length .ok ++ gs →
      ∃ t, run (1 + 2 * s.cfg.retryBudget) s = .next t ∧ t.phase = .idle ∧
        t.completions = s.completions ++ [{ status := .checksumExhausted }] ∧
        commandWords t = commandWords s ++ List.replicate s.cfg.retryBudget (Xr.pack s.cfg.opReadFrame f 0 0) ∧
        sigCalls t = sigCalls s + s.cfg.retryBudget ∧ t.busAnswers = more ∧ t.sigAnswers = gs ∧ t.inbox = rest)

/-- R162: `WRITE_FRAME f, B` as a function of the answers: a failing signature makes no bus transaction; else `bad` are
the attempts whose echo differs from the checksum sent, and the next answer, or the end of the budget, decides. -/
def Obligations.WriteFrameAsFunctionOfAnswers : Prop :=
  ∀ (s : State) (f : BitVec 16) (B : Frame) (rest : List Wire) (bad : List BusAnswer) (more : List BusAnswer)
    (g : SigAnswer) (gs : List SigAnswer), Ready s → Frame.wf s.cfg.frameSize B = true →
    s.inbox = encode s.cfg (.writeFrame f B) :: rest → s.sigAnswers = g :: gs →
    (∀ b ∈ bad, Xr.checksum b.response ≠ ck s.cfg B) →
    (g = .fail →
      ∃ t, run 2 s = .next t ∧ t.phase = .idle ∧
        t.completions = s.completions ++ [{ status := .checksumUnavailable }] ∧
        t.calls = s.calls ++ [.sig B] ∧ t.busAnswers = s.busAnswers ∧ t.sigAnswers = gs ∧ t.inbox = rest) ∧
    (∀ a : BusAnswer, g = .ok → bad.length < s.cfg.retryBudget → Xr.checksum a.response = ck s.cfg B →
      s.busAnswers = bad ++ a :: more →
      ∃ t, run (2 + (bad.length + 1)) s = .next t ∧ t.phase = .idle ∧
        t.completions = s.completions ++
          [if resultFail s.cfg (asI8 (Xr.result a.response)) = true then { status := .deviceError }
           else { status := .ok }] ∧
        t.calls = s.calls ++ .sig B ::
          List.replicate (bad.length + 1) (.bus (Xr.pack s.cfg.opWriteFrame f (ck s.cfg B) 0) B .wr) ∧
        t.busAnswers = more ∧ t.sigAnswers = gs ∧ t.inbox = rest) ∧
    (g = .ok → bad.length = s.cfg.retryBudget → s.busAnswers = bad ++ more →
      ∃ t, run (2 + s.cfg.retryBudget) s = .next t ∧ t.phase = .idle ∧
        t.completions = s.completions ++ [{ status := .checksumExhausted }] ∧
        t.calls = s.calls ++ .sig B ::
          List.replicate s.cfg.retryBudget (.bus (Xr.pack s.cfg.opWriteFrame f (ck s.cfg B) 0) B .wr) ∧
        t.busAnswers = more ∧ t.sigAnswers = gs ∧ t.inbox = rest)

/-- R163: if every call is answered, every operation completes: within `2 + 2 * RETRY_BUDGET` steps the unit is `IDLE`
again with exactly one completion more. The answers to come as lists are the model's choice (log 6), and so is the inbox
(log 7). -/
def Obligations.AnsweredOperationsTerminate : Prop :=
  ∀ (s : State) (i : Instr) (rest : List Wire), Ready s → i.isRequest = true → WellFormed s.cfg i = true →
    s.inbox = encode s.cfg i :: rest →
    s.cfg.retryBudget ≤ s.busAnswers.length → s.cfg.retryBudget ≤ s.sigAnswers.length →
    ∃ (k : Nat) (t : State) (c : Completion), k ≤ 2 + 2 * s.cfg.retryBudget ∧ run k s = .next t ∧
      t.phase = .idle ∧ t.inbox = rest ∧ t.completions = s.completions ++ [c]

/-- R188, `EventuallyFaithfulBus(m)` as a premise: `bad1` and `bad2` are fewer than `RETRY_BUDGET` answers with a checksum
field that does not match, `w` and `r` are faithful answers. Then a write followed by a read of the same frame both
complete `OK`, the read with the bytes written. With both lists empty it is `FaithfulBus`. Any further answers, `more` and
`gs`, stay for what comes after (answers as lists are log 6). -/
def Obligations.FaithfulBusRoundTrip : Prop :=
  ∀ (s : State) (f : BitVec 16) (B old : Frame) (rest : List Wire) (M M' M'' : Store) (bad1 bad2 : List BusAnswer)
    (w r : BusAnswer) (more : List BusAnswer) (gs : List SigAnswer), Ready s → Frame.wf s.cfg.frameSize B = true →
    s.inbox = encode s.cfg (.writeFrame f B) :: encode s.cfg (.readFrame f) :: rest →
    bad1.length < s.cfg.retryBudget → bad2.length < s.cfg.retryBudget →
    (∀ b ∈ bad1, Xr.checksum b.response ≠ ck s.cfg B) →
    (∀ b ∈ bad2, ck s.cfg b.buffer ≠ Xr.checksum b.response) →
    FaithfulAnswer s.cfg M M' (.bus (Xr.pack s.cfg.opWriteFrame f (ck s.cfg B) 0) B .wr) w →
    FaithfulAnswer s.cfg M' M'' (.bus (Xr.pack s.cfg.opReadFrame f 0 0) old .rd) r →
    s.busAnswers = bad1 ++ w :: (bad2 ++ r :: more) →
    s.sigAnswers = List.replicate (1 + (bad2.length + 1)) .ok ++ gs →
    ∃ t, run (2 + (bad1.length + 1) + (1 + 2 * (bad2.length + 1))) s = .next t ∧ t.phase = .idle ∧
      t.inbox = rest ∧ t.fbuf = B ∧ t.busAnswers = more ∧ t.sigAnswers = gs ∧
      t.completions = s.completions ++ [{ status := .ok }, { status := .ok, qData := some B }]

/-! ### What holds of every step -/

/-- The invariant holds right after reset. -/
def Obligations.ResetMeetsInvariant : Prop :=
  Inv State.reset

/-- Every step keeps the invariant: the parameters meet R8, `ATTEMPT` stays within the budget (R25), `FBUF` and what is
delivered are whole frames in canonical form, another master's call waits only while the unit is idle (R240), and at the
bus `XCMD` is the attempt's command word and, on a write, `CSUM` the checksum of `FBUF` (R23, R26). -/
def Obligations.StepKeepsInvariant : Prop :=
  ∀ s t : State, Inv s → step s = .next t → Inv t

/-- R36: nothing an earlier operation left in the unit's registers changes a completion or a command word. Two idle
states that agree on everything outside the unit's data registers agree so after any number of steps. -/
def Obligations.OldRegistersDoNotMatter : Prop :=
  ∀ (s t : State) (k : Nat) (s' : State), s.phase = .idle → SameOutside s t → run k s = .next s' →
    ∃ t', run k t = .next t' ∧ SameOutside s' t'

/-- R185: the `op` and `frame` fields of a response are ignored: two response words with equal `checksum` and `result`
fields have the same effect, but for the copy of the word in `XRSP`. -/
def Obligations.ResponseOpAndFrameAreIgnored : Prop :=
  (∀ (s t : State) (w : Xr), Running s → s.phase = .rdSig → Xr.checksum w = Xr.checksum s.xrsp →
    Xr.result w = Xr.result s.xrsp → step s = .next t → step { s with xrsp := w } = .next { t with xrsp := w }) ∧
  (∀ (s t : State) (a b : BusAnswer) (rest : List BusAnswer), Running s → s.phase = .wrBus →
    s.busAnswers = a :: rest → Xr.checksum a.response = Xr.checksum b.response →
    Xr.result a.response = Xr.result b.response → step s = .next t →
    step { s with busAnswers := b :: rest } = .next { t with xrsp := b.response })

/-- Every step delivers at most one completion, and one that does leaves the unit `IDLE` (R11, R150). -/
def Obligations.AtMostOneCompletionPerStep : Prop :=
  ∀ s t : State, step s = .next t →
    t.completions = s.completions ∨ ∃ k, t.completions = s.completions ++ [k] ∧ t.phase = .idle

/-- R208: raising an error writes `STATUS`, delivers the status with no result, returns to `IDLE`, makes no call, and every
other register keeps its value; `CSUM` and `XRSP` keep what the answer in hand was just written to them as. -/
def Obligations.RaisedErrorsDeliverStatusOnly : Prop :=
  ∀ (s t : State) (k : Completion), step s = .next t → t.completions = s.completions ++ [k] → k.status ≠ .ok →
    t.status = k.status ∧ t.phase = .idle ∧ k = { status := k.status } ∧
    t.attempt = s.attempt ∧ t.fidx = s.fidx ∧ t.fbuf = s.fbuf ∧ t.xcmd = s.xcmd ∧ t.calls = s.calls ∧
    (t.csum = s.csum ∨ (s.phase = .rdSig ∨ s.phase = .wrSig) ∧ t.csum = ck s.cfg s.fbuf) ∧
    (t.xrsp = s.xrsp ∨ s.phase = .wrBus ∧ ∃ a rest, s.busAnswers = a :: rest ∧ t.xrsp = a.response)

/-- R201: `ChecksumUnavailable` is raised exactly when a signature call made for the operation fails, in any of the three
phases that wait for one. It ends the operation: nothing is retried, no further transaction is made, and on a write none
has been made. -/
def Obligations.UnavailableExactlyOnSignatureFailure : Prop :=
  ∀ s t : State, Inv s → Running s → step s = .next t →
    ((∃ k, t.completions = s.completions ++ [k] ∧ k.status = .checksumUnavailable) ↔
      (s.phase = .ckSig ∨ s.phase = .rdSig ∨ s.phase = .wrSig) ∧ ∃ rest, s.sigAnswers = .fail :: rest) ∧
    (∀ k, t.completions = s.completions ++ [k] → k.status = .checksumUnavailable →
      t.phase = .idle ∧ t.calls = s.calls ∧ t.attempt = s.attempt ∧ (s.phase = .wrSig → s.attempt = 0))

/-- `ChecksumExhausted` is raised exactly when `RETRY_BUDGET` attempts have been made and the last one mismatches (R149,
R202). -/
def Obligations.ExhaustedExactlyOnLastMismatch : Prop :=
  ∀ s t : State, Inv s → Running s → step s = .next t →
    ((∃ k, t.completions = s.completions ++ [k] ∧ k.status = .checksumExhausted) ↔
      s.attempt = s.cfg.retryBudget ∧
      ((s.phase = .rdSig ∧ ck s.cfg s.fbuf ≠ Xr.checksum s.xrsp ∧ ∃ rest, s.sigAnswers = .ok :: rest) ∨
       (s.phase = .wrBus ∧ ∃ a rest, s.busAnswers = a :: rest ∧ Xr.checksum a.response ≠ s.csum)))

/-- R203: `DeviceError` is raised exactly when the checksums agree and the result signals failure. It ends the operation,
is not retried, and delivers the status alone. -/
def Obligations.DeviceErrorExactlyOnCorroboratedFailure : Prop :=
  ∀ s t : State, Running s → step s = .next t →
    ((∃ k, t.completions = s.completions ++ [k] ∧ k.status = .deviceError) ↔
      (s.phase = .rdSig ∧ (∃ rest, s.sigAnswers = .ok :: rest) ∧ ck s.cfg s.fbuf = Xr.checksum s.xrsp ∧
        resultFail s.cfg (asI8 (Xr.result s.xrsp)) = true) ∨
      (s.phase = .wrBus ∧ ∃ a rest, s.busAnswers = a :: rest ∧ Xr.checksum a.response = s.csum ∧
        resultFail s.cfg (asI8 (Xr.result a.response)) = true)) ∧
    (∀ k, t.completions = s.completions ++ [k] → k.status = .deviceError →
      t.phase = .idle ∧ t.calls = s.calls ∧ k = { status := .deviceError })

/-- What an `OK` read establishes (R62): the data are the last buffer the bus returned, its checksum equals the last
response's checksum field, and that response's result is no failure. -/
def Obligations.OkReadIsCorroborated : Prop :=
  ∀ (s t : State) (k : Completion) (B : Frame), Running s → step s = .next t →
    t.completions = s.completions ++ [k] → k.qData = some B →
    s.phase = .rdSig ∧ k.status = .ok ∧ B = s.fbuf ∧ ck s.cfg B = Xr.checksum s.xrsp ∧
      resultFail s.cfg (asI8 (Xr.result s.xrsp)) = false ∧ ∃ rest, s.sigAnswers = .ok :: rest

/-- What an `OK` write establishes (R63): to the command word with the checksum of the buffer the bus answered a word
that echoes that checksum and whose result is no failure. -/
def Obligations.OkWriteIsCorroborated : Prop :=
  ∀ (s t : State) (k : Completion), Inv s → Running s → s.phase = .wrBus → step s = .next t →
    t.completions = s.completions ++ [k] → k.status = .ok →
    s.xcmd = Xr.pack s.cfg.opWriteFrame s.fidx (ck s.cfg s.fbuf) 0 ∧
      ∃ a rest, s.busAnswers = a :: rest ∧ Xr.checksum a.response = ck s.cfg s.fbuf ∧
        resultFail s.cfg (asI8 (Xr.result a.response)) = false

/-- `ATTEMPT` counts the bus transactions of the operation: while the unit is busy it grows by one with each transaction
the unit makes, at most one a step, and otherwise stays (R25, R221). -/
def Obligations.AttemptCountsBusTransactions : Prop :=
  ∀ s t : State, Running s → s.phase ≠ .idle → step s = .next t →
    ∃ new, t.calls = s.calls ++ new ∧ new.countP Call.isBus ≤ 1 ∧ t.attempt = s.attempt + new.countP Call.isBus

/-- The unit's bus transactions are reads of `OP_READ_FRAME` words and writes of `OP_WRITE_FRAME` words with a zero
`result`, for the frame in `FIDX`, with the buffer `FBUF`; no step makes any other (R51, R98, R189). -/
def Obligations.UnitSendsOnlyFrameTransfers : Prop :=
  ∀ s t : State, step s = .next t →
    ∃ new, t.calls = s.calls ++ new ∧
      ∀ w B d, Call.bus w B d ∈ new →
        w = t.xcmd ∧ B = t.fbuf ∧ Xr.frame w = t.fidx ∧ Xr.result w = 0 ∧
        ((d = .rd ∧ t.phase = .rdBus ∧ Xr.op w = s.cfg.opReadFrame ∧ Xr.checksum w = 0) ∨
         (d = .wr ∧ t.phase = .wrBus ∧ Xr.op w = s.cfg.opWriteFrame ∧ Xr.checksum w = t.csum))

/-- While a read is in progress its frame index does not change, and each further attempt sends the word `XCMD` already
holds (R21, R145). -/
def Obligations.ReadAttemptsSendSameWord : Prop :=
  ∀ s t : State, Inv s → Running s → s.phase = .rdBus ∨ s.phase = .rdSig → step s = .next t →
    t.fidx = s.fidx ∧ t.xcmd = s.xcmd ∧ ∃ new, t.calls = s.calls ++ new ∧
      ∀ w B d, Call.bus w B d ∈ new → w = s.xcmd ∧ d = .rd

/-- While a write is in progress its buffer and frame index do not change, whatever its end; in the retry loop each
attempt sends the word `XCMD` already holds with that buffer, and no signature call is made (R152, R155, R156). -/
def Obligations.WriteAttemptsSendSameWordAndBuffer : Prop :=
  ∀ s t : State, Inv s → Running s → s.phase = .wrSig ∨ s.phase = .wrBus → step s = .next t →
    t.fbuf = s.fbuf ∧ t.fidx = s.fidx ∧
    (s.phase = .wrBus → t.xcmd = s.xcmd ∧ t.csum = s.csum ∧ ∃ new, t.calls = s.calls ++ new ∧
      ∀ e ∈ new, e = .bus s.xcmd s.fbuf .wr)

/-! ### The bus command words of other masters -/

/-- `INIT`, `ZERO_BLOCK`, `POWOFF`, and `RDFRAME` and `WRFRAME` when another master makes the call: the bus's answer,
whatever it is, goes to that master, and no register of the unit changes (R37, R181, R189, R192 to R194; that the model
runs such a call, and where it keeps the answer, is log 10). -/
def Obligations.OtherMastersCallLeavesUnitAlone : Prop :=
  ∀ (s : State) (a : BusAnswer) (rest : List BusAnswer) (k : BitVec 16) (k2 : BitVec 32) (r : BitVec 8),
    s.phase = .idle → s.extCall = none → s.busAnswers = a :: rest →
    ∀ p ∈ [(Instr.init k k2 r, s.cfg.opInit), (.zeroBlock k k2 r, s.cfg.opZeroBlock),
        (.rdframe k k2 r, s.cfg.opReadFrame), (.wrframe k k2 r, s.cfg.opWriteFrame), (.powoff k k2 r, s.cfg.opPowerOff)],
      exec p.1 s = .next { s with
        busAnswers := rest, extReply := some a, calls := s.calls ++ [.other (Xr.pack p.2 k k2 r)] }

/-- Another master's call waits until the bus answers, and the unit accepts nothing meanwhile (R238, R240, log 10). -/
def Obligations.OtherMastersCallWaits : Prop :=
  (∀ (s : State) (w : Xr) (rest : List Wire), Ready s → s.busAnswers = [] → s.inbox = .command w :: rest →
    step s = .next { s with inbox := rest, extCall := some w, calls := s.calls ++ [.other w] }) ∧
  (∀ (s : State) (w : Xr), Running s → s.phase = .idle → s.extCall = some w →
    (s.busAnswers = [] → step s = .next s) ∧
    (∀ a rest, s.busAnswers = a :: rest →
      step s = .next { s with busAnswers := rest, extCall := none, extReply := some a }))

/-- A word whose `op` is none of the five gets an answer like any other when another master sends it (R96, R181). -/
def Obligations.ReservedOpIsAnsweredByBus : Prop :=
  ∀ (s : State) (w : Xr) (rest : List Wire) (a : BusAnswer) (more : List BusAnswer), Ready s →
    s.inbox = .command w :: rest → Xr.op w ∉ s.cfg.opCodes → s.busAnswers = a :: more →
    decode s.cfg (.command w) = .error (.reservedOp (Xr.op w)) ∧
    step s = .next { s with
      inbox := rest, busAnswers := more, extReply := some a, calls := s.calls ++ [.other w] }

/-- While the unit is busy, a command word that is not the one it has outstanding is refused: the bus is the unit's alone
(R240, log 11). -/
def Obligations.BusIsExclusiveWhileBusy : Prop :=
  ∀ (s : State) (k : BitVec 16) (k2 : BitVec 32) (r : BitVec 8), s.phase ≠ .idle →
    (∀ i ∈ [Instr.init k k2 r, .zeroBlock k k2 r, .powoff k k2 r], exec i s = .refused .busNotExclusive) ∧
    (¬ (s.phase = .rdBus ∧ s.xcmd = Xr.pack s.cfg.opReadFrame k k2 r) →
      exec (.rdframe k k2 r) s = .refused .busNotExclusive) ∧
    (¬ (s.phase = .wrBus ∧ s.xcmd = Xr.pack s.cfg.opWriteFrame k k2 r) →
      exec (.wrframe k k2 r) s = .refused .busNotExclusive)

/-! ### Reset -/

/-- The values the spec gives for reset (R38, R230), and an idle unit that is not being reset. -/
def Obligations.ResetLeavesIdleUnit : Prop :=
  State.reset.phase = .idle ∧ State.reset.attempt = 0 ∧ State.reset.status = .ok ∧ Ready State.reset

/-- The reset event, in any phase: the three specified registers get their values, an operation in progress is dropped
with no completion, and the answer to its outstanding call is discarded (R230, R231; how the model holds reset is log
15). -/
def Obligations.ResetDropsOperation : Prop :=
  ∀ s : State, s.cfg.wf = true → s.resetLine = true →
    ∃ t, step s = .next t ∧ t.phase = .idle ∧ t.attempt = 0 ∧ t.status = .ok ∧ t.resetLine = false ∧
      t.completions = s.completions ∧ t.calls = s.calls ∧ t.inbox = s.inbox ∧ t.cfg = s.cfg ∧
      t.busAnswers = (if s.phase = .rdBus ∨ s.phase = .wrBus then s.busAnswers.tail else s.busAnswers) ∧
      t.sigAnswers =
        (if s.phase = .ckSig ∨ s.phase = .rdSig ∨ s.phase = .wrSig then s.sigAnswers.tail else s.sigAnswers)

/-! ### The round trip of the XR format -/

/-- R85: unpacking what was packed returns the four operands, for all of them; packing what was unpacked returns the
register, for every register; and a register is its four fields side by side, with no gap and no overlap. -/
def Obligations.XrRoundTrip : Prop :=
  (∀ (op : BitVec 8) (frame : BitVec 16) (cs : BitVec 32) (rc : BitVec 8),
    Xr.unpack (Xr.pack op frame cs rc) = (op, frame, cs, rc)) ∧
  (∀ reg : Xr,
    Xr.pack (Xr.unpack reg).1 (Xr.unpack reg).2.1 (Xr.unpack reg).2.2.1 (Xr.unpack reg).2.2.2 = reg ∧
    (Xr.unpack reg).1 ++ (Xr.unpack reg).2.1 ++ (Xr.unpack reg).2.2.1 ++ (Xr.unpack reg).2.2.2 = reg)
end

