-- ==== Sys2Proof/Laws/Codec.lean ====
section
/-! SUPPORT. The small lemmas of packing and unpacking (30_encoding.md R80 to R83, R85), and of the signed reading of a byte
(00_scope.md R13). -/

namespace Sys2Proof

variable (o : BitVec 8) (f : BitVec 16) (c : BitVec 32) (r : BitVec 8) (w : Xr)

/-- Every bit of a packed register is a bit of exactly one field (R80). -/
theorem Xr.getLsbD_pack (j : Nat) : (Xr.pack o f c r).getLsbD j =
    if j < 8 then r.getLsbD j else if j < 40 then c.getLsbD (j - 8)
    else if j < 56 then f.getLsbD (j - 40) else o.getLsbD (j - 56) := by
  simp only [Xr.pack, BitVec.getLsbD_or, BitVec.getLsbD_shiftLeft, BitVec.getLsbD_setWidth]
  rcases Nat.lt_or_ge j 64 with hj | hj
  · split
    · have h8 : j < 40 := by omega
      have h9 : j < 56 := by omega
      simp [*]
    · have hr : r.getLsbD j = false := BitVec.getLsbD_of_ge _ _ (by omega)
      have h8 : j - 8 < 64 := by omega
      split
      · have h9 : j < 56 := by omega
        simp [*]
      · have hc : c.getLsbD (j - 8) = false := BitVec.getLsbD_of_ge _ _ (by omega)
        have h9 : j - 40 < 64 := by omega
        split
        · simp [*]
        · have hf : f.getLsbD (j - 40) = false := BitVec.getLsbD_of_ge _ _ (by omega)
          have h10 : j - 56 < 64 := by omega
          simp [*]
  · have ho : o.getLsbD (j - 56) = false := BitVec.getLsbD_of_ge _ _ (by omega)
    have hn : ¬ j < 64 := by omega
    have h8 : ¬ j < 8 := by omega
    have h40 : ¬ j < 40 := by omega
    have h56 : ¬ j < 56 := by omega
    simp [hn, h8, h40, h56, ho]

@[simp] theorem Xr.op_pack : Xr.op (Xr.pack o f c r) = o := by
  refine BitVec.eq_of_getLsbD_eq fun i hi => ?_
  simp only [Xr.op, BitVec.getLsbD_extractLsb', Xr.getLsbD_pack, hi, decide_true, Bool.true_and]
  simp [show ¬ 56 + i < 8 by omega, show ¬ 56 + i < 40 by omega, show ¬ 56 + i < 56 by omega]

@[simp] theorem Xr.frame_pack : Xr.frame (Xr.pack o f c r) = f := by
  refine BitVec.eq_of_getLsbD_eq fun i hi => ?_
  simp only [Xr.frame, BitVec.getLsbD_extractLsb', Xr.getLsbD_pack, hi, decide_true, Bool.true_and]
  simp [show ¬ 40 + i < 8 by omega, show ¬ 40 + i < 40 by omega, show 40 + i < 56 by omega]

@[simp] theorem Xr.checksum_pack : Xr.checksum (Xr.pack o f c r) = c := by
  refine BitVec.eq_of_getLsbD_eq fun i hi => ?_
  simp only [Xr.checksum, BitVec.getLsbD_extractLsb', Xr.getLsbD_pack, hi, decide_true, Bool.true_and]
  simp [show 8 + i < 40 by omega]

@[simp] theorem Xr.result_pack : Xr.result (Xr.pack o f c r) = r := by
  refine BitVec.eq_of_getLsbD_eq fun i hi => ?_
  simp only [Xr.result, BitVec.getLsbD_extractLsb', Xr.getLsbD_pack, hi, decide_true, Bool.true_and]
  simp [hi]

/-- Every 64-bit value is the packing of its four fields (R85). -/
@[simp] theorem Xr.pack_fields : Xr.pack (Xr.op w) (Xr.frame w) (Xr.checksum w) (Xr.result w) = w := by
  refine BitVec.eq_of_getLsbD_eq fun i hi => ?_
  simp only [Xr.getLsbD_pack, Xr.op, Xr.frame, Xr.checksum, Xr.result, BitVec.getLsbD_extractLsb']
  split
  · simp [*]
  · split
    · have h1 : i - 8 < 32 := by omega
      have h2 : 8 + (i - 8) = i := by omega
      simp [h1, h2]
    · split
      · have h1 : i - 40 < 16 := by omega
        have h2 : 40 + (i - 40) = i := by omega
        simp [h1, h2]
      · have h1 : i - 56 < 8 := by omega
        have h2 : 56 + (i - 56) = i := by omega
        simp [h1, h2]

/-- The signed reading loses nothing: the byte it came from reads back (R13, R83). -/
@[simp] theorem asU8_asI8 (b : BitVec 8) : asU8 (asI8 b) = b := by
  apply BitVec.eq_of_toNat_eq
  have hb := b.isLt
  unfold asU8 asI8
  split
  · simp
  · rename_i h
    rw [if_neg (by omega), Int.sub_add_cancel]
    simp

end Sys2Proof
end

