-- ==== Sys2Proof/Laws/Frame.lean ====
section
/-! SUPPORT. The canonical form of a frame: every operation that makes one keeps it, equal byte strings are equal data, and
byte `i` of what is made is byte `i` of what it was made of (20_memory.md R55). -/

namespace Sys2Proof

theorem Frame.canonicalFrom_mono {n lo lo' : Nat} {f : Frame} (hle : lo' ≤ lo)
    (h : Frame.canonicalFrom n lo f = true) : Frame.canonicalFrom n lo' f = true := by
  cases f with
  | nil => rfl
  | cons e rest =>
    obtain ⟨a, b⟩ := e
    simp only [Frame.canonicalFrom, Bool.and_eq_true, decide_eq_true_eq] at h ⊢
    exact ⟨⟨⟨by omega, h.1.1.2⟩, h.1.2⟩, h.2⟩

theorem Frame.ofBytesFrom_canonical (bs : List Byte) (i n : Nat) (h : i + bs.length ≤ n) :
    Frame.canonicalFrom n i (Frame.ofBytesFrom i bs) = true := by
  induction bs generalizing i with
  | nil => rfl
  | cons b bs ih =>
    simp only [List.length_cons] at h
    have hr := ih (i + 1) (by omega)
    unfold Frame.ofBytesFrom
    split
    · exact Frame.canonicalFrom_mono (by omega) hr
    · rename_i hb
      simp only [Frame.canonicalFrom, Bool.and_eq_true, decide_eq_true_eq]
      exact ⟨⟨⟨by omega, by omega⟩, hb⟩, hr⟩

/-- The frame made of `n` bytes is well formed. -/
theorem Frame.ofBytes_wf (bs : List Byte) : Frame.wf bs.length (Frame.ofBytes bs) = true :=
  Frame.ofBytesFrom_canonical bs 0 bs.length (by omega)

/-- Every reset leaves one whole frame in `FBUF` (R22, R38). -/
theorem Machine.resetFbuf_wf (size n : Nat) : Frame.wf size (Machine.resetFbuf size n) = true := by
  have h := Frame.ofBytes_wf ((List.range size).map (Config.resetFbufByte n))
  simpa [Machine.resetFbuf] using h

/-- Below the first index listed, every byte is zero. -/
theorem Frame.byteAt_below {n lo i : Nat} {f : Frame} (h : Frame.canonicalFrom n lo f = true) (hi : i < lo) :
    Frame.byteAt f i = 0 := by
  induction f generalizing lo with
  | nil => rfl
  | cons e rest ih =>
    obtain ⟨a, b⟩ := e
    simp only [Frame.canonicalFrom, Bool.and_eq_true, decide_eq_true_eq] at h
    have hne : a ≠ i := by omega
    simp only [Frame.byteAt, hne, if_false]
    exact ih h.2 (by omega)

/-- Two frames in canonical form with the same bytes are the same data. -/
theorem Frame.canonical_ext {n lo : Nat} {f g : Frame} (hf : Frame.canonicalFrom n lo f = true)
    (hg : Frame.canonicalFrom n lo g = true) (h : ∀ i, i < n → Frame.byteAt f i = Frame.byteAt g i) : f = g := by
  induction f generalizing lo g with
  | nil =>
    cases g with
    | nil => rfl
    | cons e rest =>
      obtain ⟨a, b⟩ := e
      simp only [Frame.canonicalFrom, Bool.and_eq_true, decide_eq_true_eq] at hg
      have := h a hg.1.1.2
      simp only [Frame.byteAt, if_true] at this
      exact absurd this.symm hg.1.2
  | cons e rest ih =>
    obtain ⟨a, b⟩ := e
    have hf' := hf
    simp only [Frame.canonicalFrom, Bool.and_eq_true, decide_eq_true_eq] at hf'
    cases g with
    | nil =>
      have := h a hf'.1.1.2
      simp only [Frame.byteAt, if_true] at this
      exact absurd this hf'.1.2
    | cons e' rest' =>
      obtain ⟨a', b'⟩ := e'
      have hg' := hg
      simp only [Frame.canonicalFrom, Bool.and_eq_true, decide_eq_true_eq] at hg'
      have haa : a = a' := by
        rcases Nat.lt_trichotomy a a' with hlt | heq | hgt
        · have h0 := h a hf'.1.1.2
          simp only [Frame.byteAt, if_true] at h0
          have hz := Frame.byteAt_below hg'.2 (show a < a' + 1 by omega)
          simp only [show a' ≠ a by omega, if_false, hz] at h0
          exact absurd h0 hf'.1.2
        · exact heq
        · have h0 := h a' hg'.1.1.2
          simp only [Frame.byteAt, if_true] at h0
          have hz := Frame.byteAt_below hf'.2 (show a' < a + 1 by omega)
          simp only [show a ≠ a' by omega, if_false, hz] at h0
          exact absurd h0.symm hg'.1.2
      subst haa
      have hb : b = b' := by
        have h0 := h a hf'.1.1.2
        simpa only [Frame.byteAt, if_true] using h0
      subst hb
      have hrest : rest = rest' := by
        refine ih hf'.2 hg'.2 fun i hi => ?_
        rcases Nat.lt_or_ge i (a + 1) with hlt | hge
        · rw [Frame.byteAt_below hf'.2 hlt, Frame.byteAt_below hg'.2 hlt]
        · have h0 := h i hi
          simpa only [Frame.byteAt, show a ≠ i by omega, if_false] using h0
      rw [hrest]

/-- Two well-formed frames with the same bytes are equal: a frame is its byte string (R13, R55). -/
theorem Frame.ext_of_bytes {n : Nat} {f g : Frame} (hf : Frame.wf n f = true) (hg : Frame.wf n g = true)
    (h : ∀ i, i < n → Frame.byteAt f i = Frame.byteAt g i) : f = g :=
  Frame.canonical_ext hf hg h

theorem Frame.byteAt_ofBytesFrom (bs : List Byte) (i j : Nat) :
    Frame.byteAt (Frame.ofBytesFrom i bs) (i + j) = bs.getD j 0 := by
  induction bs generalizing i j with
  | nil => simp [Frame.ofBytesFrom, Frame.byteAt]
  | cons b bs ih =>
    have hstep : ∀ k, Frame.byteAt (Frame.ofBytesFrom (i + 1) bs) (i + (k + 1)) = bs.getD k 0 := by
      intro k
      have := ih (i + 1) k
      rwa [show i + 1 + k = i + (k + 1) by omega] at this
    unfold Frame.ofBytesFrom
    cases j with
    | zero =>
      split
      · rename_i hb
        have hc := Frame.ofBytesFrom_canonical bs (i + 1) (i + 1 + bs.length) (Nat.le_refl _)
        rw [Frame.byteAt_below hc (by omega)]
        simp [hb]
      · simp [Frame.byteAt]
    | succ k =>
      split
      · simpa using hstep k
      · simpa [Frame.byteAt] using hstep k

/-- Byte `j` of the frame of a byte string is byte `j` of the string (R55). -/
theorem Frame.byteAt_ofBytes (bs : List Byte) (j : Nat) : Frame.byteAt (Frame.ofBytes bs) j = bs.getD j 0 := by
  simpa [Frame.ofBytes] using Frame.byteAt_ofBytesFrom bs 0 j

@[simp] theorem Frame.bytes_length (n : Nat) (f : Frame) : (f.bytes n).length = n := by
  simp [Frame.bytes]

/-- Writing a well-formed frame out as a byte string and reading it back gives the frame. -/
theorem Frame.ofBytes_bytes {n : Nat} {f : Frame} (h : Frame.wf n f = true) : Frame.ofBytes (f.bytes n) = f := by
  refine Frame.ext_of_bytes (n := n) ?_ h fun i hi => ?_
  · simpa using Frame.ofBytes_wf (f.bytes n)
  · rw [Frame.byteAt_ofBytes]
    simp [Frame.bytes, hi]

end Sys2Proof
end

