-- ==== Sys2Proof/Laws/State.lean ====
section
/-! SUPPORT. One lemma per field of State for each shared update, so that no proof unfolds a record update. -/

namespace Sys2Proof.Machine

variable (s : State)

@[simp] theorem complete_cfg (k : Completion) : (complete k s).cfg = s.cfg := rfl
@[simp] theorem complete_phase (k : Completion) : (complete k s).phase = .idle := rfl
@[simp] theorem complete_attempt (k : Completion) : (complete k s).attempt = s.attempt := rfl
@[simp] theorem complete_fidx (k : Completion) : (complete k s).fidx = s.fidx := rfl
@[simp] theorem complete_fbuf (k : Completion) : (complete k s).fbuf = s.fbuf := rfl
@[simp] theorem complete_csum (k : Completion) : (complete k s).csum = s.csum := rfl
@[simp] theorem complete_xcmd (k : Completion) : (complete k s).xcmd = s.xcmd := rfl
@[simp] theorem complete_xrsp (k : Completion) : (complete k s).xrsp = s.xrsp := rfl
@[simp] theorem complete_status (k : Completion) : (complete k s).status = s.status := rfl
@[simp] theorem complete_ckData (k : Completion) : (complete k s).ckData = s.ckData := rfl
@[simp] theorem complete_inbox (k : Completion) : (complete k s).inbox = s.inbox := rfl
@[simp] theorem complete_busAnswers (k : Completion) : (complete k s).busAnswers = s.busAnswers := rfl
@[simp] theorem complete_sigAnswers (k : Completion) : (complete k s).sigAnswers = s.sigAnswers := rfl
@[simp] theorem complete_resetLine (k : Completion) : (complete k s).resetLine = s.resetLine := rfl
@[simp] theorem complete_extCall (k : Completion) : (complete k s).extCall = s.extCall := rfl
@[simp] theorem complete_extReply (k : Completion) : (complete k s).extReply = s.extReply := rfl
@[simp] theorem complete_calls (k : Completion) : (complete k s).calls = s.calls := rfl
@[simp] theorem complete_completions (k : Completion) : (complete k s).completions = s.completions ++ [k] := rfl
@[simp] theorem complete_resets (k : Completion) : (complete k s).resets = s.resets := rfl

@[simp] theorem completeOk_cfg (k : Completion) : (completeOk k s).cfg = s.cfg := rfl
@[simp] theorem completeOk_phase (k : Completion) : (completeOk k s).phase = .idle := rfl
@[simp] theorem completeOk_attempt (k : Completion) : (completeOk k s).attempt = s.attempt := rfl
@[simp] theorem completeOk_fidx (k : Completion) : (completeOk k s).fidx = s.fidx := rfl
@[simp] theorem completeOk_fbuf (k : Completion) : (completeOk k s).fbuf = s.fbuf := rfl
@[simp] theorem completeOk_csum (k : Completion) : (completeOk k s).csum = s.csum := rfl
@[simp] theorem completeOk_xcmd (k : Completion) : (completeOk k s).xcmd = s.xcmd := rfl
@[simp] theorem completeOk_xrsp (k : Completion) : (completeOk k s).xrsp = s.xrsp := rfl
@[simp] theorem completeOk_status (k : Completion) : (completeOk k s).status = .ok := rfl
@[simp] theorem completeOk_ckData (k : Completion) : (completeOk k s).ckData = s.ckData := rfl
@[simp] theorem completeOk_inbox (k : Completion) : (completeOk k s).inbox = s.inbox := rfl
@[simp] theorem completeOk_busAnswers (k : Completion) : (completeOk k s).busAnswers = s.busAnswers := rfl
@[simp] theorem completeOk_sigAnswers (k : Completion) : (completeOk k s).sigAnswers = s.sigAnswers := rfl
@[simp] theorem completeOk_resetLine (k : Completion) : (completeOk k s).resetLine = s.resetLine := rfl
@[simp] theorem completeOk_extCall (k : Completion) : (completeOk k s).extCall = s.extCall := rfl
@[simp] theorem completeOk_extReply (k : Completion) : (completeOk k s).extReply = s.extReply := rfl
@[simp] theorem completeOk_calls (k : Completion) : (completeOk k s).calls = s.calls := rfl
@[simp] theorem completeOk_completions (k : Completion) : (completeOk k s).completions = s.completions ++ [k] := rfl
@[simp] theorem completeOk_resets (k : Completion) : (completeOk k s).resets = s.resets := rfl

@[simp] theorem raise_cfg (e : TransferError) : (raise e s).cfg = s.cfg := rfl
@[simp] theorem raise_phase (e : TransferError) : (raise e s).phase = .idle := rfl
@[simp] theorem raise_attempt (e : TransferError) : (raise e s).attempt = s.attempt := rfl
@[simp] theorem raise_fidx (e : TransferError) : (raise e s).fidx = s.fidx := rfl
@[simp] theorem raise_fbuf (e : TransferError) : (raise e s).fbuf = s.fbuf := rfl
@[simp] theorem raise_csum (e : TransferError) : (raise e s).csum = s.csum := rfl
@[simp] theorem raise_xcmd (e : TransferError) : (raise e s).xcmd = s.xcmd := rfl
@[simp] theorem raise_xrsp (e : TransferError) : (raise e s).xrsp = s.xrsp := rfl
@[simp] theorem raise_status (e : TransferError) : (raise e s).status = errorStatus e := rfl
@[simp] theorem raise_ckData (e : TransferError) : (raise e s).ckData = s.ckData := rfl
@[simp] theorem raise_inbox (e : TransferError) : (raise e s).inbox = s.inbox := rfl
@[simp] theorem raise_busAnswers (e : TransferError) : (raise e s).busAnswers = s.busAnswers := rfl
@[simp] theorem raise_sigAnswers (e : TransferError) : (raise e s).sigAnswers = s.sigAnswers := rfl
@[simp] theorem raise_resetLine (e : TransferError) : (raise e s).resetLine = s.resetLine := rfl
@[simp] theorem raise_extCall (e : TransferError) : (raise e s).extCall = s.extCall := rfl
@[simp] theorem raise_extReply (e : TransferError) : (raise e s).extReply = s.extReply := rfl
@[simp] theorem raise_calls (e : TransferError) : (raise e s).calls = s.calls := rfl
@[simp] theorem raise_completions (e : TransferError) : (raise e s).completions = s.completions ++ [{ status := errorStatus e }] := rfl
@[simp] theorem raise_resets (e : TransferError) : (raise e s).resets = s.resets := rfl

@[simp] theorem callSig_cfg (f : Frame) : (callSig f s).cfg = s.cfg := rfl
@[simp] theorem callSig_phase (f : Frame) : (callSig f s).phase = s.phase := rfl
@[simp] theorem callSig_attempt (f : Frame) : (callSig f s).attempt = s.attempt := rfl
@[simp] theorem callSig_fidx (f : Frame) : (callSig f s).fidx = s.fidx := rfl
@[simp] theorem callSig_fbuf (f : Frame) : (callSig f s).fbuf = s.fbuf := rfl
@[simp] theorem callSig_csum (f : Frame) : (callSig f s).csum = s.csum := rfl
@[simp] theorem callSig_xcmd (f : Frame) : (callSig f s).xcmd = s.xcmd := rfl
@[simp] theorem callSig_xrsp (f : Frame) : (callSig f s).xrsp = s.xrsp := rfl
@[simp] theorem callSig_status (f : Frame) : (callSig f s).status = s.status := rfl
@[simp] theorem callSig_ckData (f : Frame) : (callSig f s).ckData = s.ckData := rfl
@[simp] theorem callSig_inbox (f : Frame) : (callSig f s).inbox = s.inbox := rfl
@[simp] theorem callSig_busAnswers (f : Frame) : (callSig f s).busAnswers = s.busAnswers := rfl
@[simp] theorem callSig_sigAnswers (f : Frame) : (callSig f s).sigAnswers = s.sigAnswers := rfl
@[simp] theorem callSig_resetLine (f : Frame) : (callSig f s).resetLine = s.resetLine := rfl
@[simp] theorem callSig_extCall (f : Frame) : (callSig f s).extCall = s.extCall := rfl
@[simp] theorem callSig_extReply (f : Frame) : (callSig f s).extReply = s.extReply := rfl
@[simp] theorem callSig_calls (f : Frame) : (callSig f s).calls = s.calls ++ [.sig f] := rfl
@[simp] theorem callSig_completions (f : Frame) : (callSig f s).completions = s.completions := rfl
@[simp] theorem callSig_resets (f : Frame) : (callSig f s).resets = s.resets := rfl

@[simp] theorem sendAttempt_cfg (w : Xr) (d : Dir) (p : Phase) : (sendAttempt w d p s).cfg = s.cfg := rfl
@[simp] theorem sendAttempt_phase (w : Xr) (d : Dir) (p : Phase) : (sendAttempt w d p s).phase = p := rfl
@[simp] theorem sendAttempt_attempt (w : Xr) (d : Dir) (p : Phase) : (sendAttempt w d p s).attempt = s.attempt + 1 := rfl
@[simp] theorem sendAttempt_fidx (w : Xr) (d : Dir) (p : Phase) : (sendAttempt w d p s).fidx = s.fidx := rfl
@[simp] theorem sendAttempt_fbuf (w : Xr) (d : Dir) (p : Phase) : (sendAttempt w d p s).fbuf = s.fbuf := rfl
@[simp] theorem sendAttempt_csum (w : Xr) (d : Dir) (p : Phase) : (sendAttempt w d p s).csum = s.csum := rfl
@[simp] theorem sendAttempt_xcmd (w : Xr) (d : Dir) (p : Phase) : (sendAttempt w d p s).xcmd = w := rfl
@[simp] theorem sendAttempt_xrsp (w : Xr) (d : Dir) (p : Phase) : (sendAttempt w d p s).xrsp = s.xrsp := rfl
@[simp] theorem sendAttempt_status (w : Xr) (d : Dir) (p : Phase) : (sendAttempt w d p s).status = s.status := rfl
@[simp] theorem sendAttempt_ckData (w : Xr) (d : Dir) (p : Phase) : (sendAttempt w d p s).ckData = s.ckData := rfl
@[simp] theorem sendAttempt_inbox (w : Xr) (d : Dir) (p : Phase) : (sendAttempt w d p s).inbox = s.inbox := rfl
@[simp] theorem sendAttempt_busAnswers (w : Xr) (d : Dir) (p : Phase) : (sendAttempt w d p s).busAnswers = s.busAnswers := rfl
@[simp] theorem sendAttempt_sigAnswers (w : Xr) (d : Dir) (p : Phase) : (sendAttempt w d p s).sigAnswers = s.sigAnswers := rfl
@[simp] theorem sendAttempt_resetLine (w : Xr) (d : Dir) (p : Phase) : (sendAttempt w d p s).resetLine = s.resetLine := rfl
@[simp] theorem sendAttempt_extCall (w : Xr) (d : Dir) (p : Phase) : (sendAttempt w d p s).extCall = s.extCall := rfl
@[simp] theorem sendAttempt_extReply (w : Xr) (d : Dir) (p : Phase) : (sendAttempt w d p s).extReply = s.extReply := rfl
@[simp] theorem sendAttempt_calls (w : Xr) (d : Dir) (p : Phase) : (sendAttempt w d p s).calls = s.calls ++ [.bus w s.fbuf d] := rfl
@[simp] theorem sendAttempt_completions (w : Xr) (d : Dir) (p : Phase) : (sendAttempt w d p s).completions = s.completions := rfl
@[simp] theorem sendAttempt_resets (w : Xr) (d : Dir) (p : Phase) : (sendAttempt w d p s).resets = s.resets := rfl

@[simp] theorem resetEvent_cfg : (resetEvent s).cfg = s.cfg := rfl
@[simp] theorem resetEvent_phase : (resetEvent s).phase = .idle := rfl
@[simp] theorem resetEvent_attempt : (resetEvent s).attempt = 0 := rfl
@[simp] theorem resetEvent_fidx : (resetEvent s).fidx = Config.resetFidx (s.resets + 1) := rfl
@[simp] theorem resetEvent_fbuf : (resetEvent s).fbuf = resetFbuf s.cfg.frameSize (s.resets + 1) := rfl
@[simp] theorem resetEvent_csum : (resetEvent s).csum = Config.resetCsum (s.resets + 1) := rfl
@[simp] theorem resetEvent_xcmd : (resetEvent s).xcmd = Config.resetXcmd (s.resets + 1) := rfl
@[simp] theorem resetEvent_xrsp : (resetEvent s).xrsp = Config.resetXrsp (s.resets + 1) := rfl
@[simp] theorem resetEvent_status : (resetEvent s).status = .ok := rfl
@[simp] theorem resetEvent_ckData : (resetEvent s).ckData = s.ckData := rfl
@[simp] theorem resetEvent_inbox : (resetEvent s).inbox = s.inbox := rfl
@[simp] theorem resetEvent_busAnswers : (resetEvent s).busAnswers = busAnswersAfterReset s := rfl
@[simp] theorem resetEvent_sigAnswers : (resetEvent s).sigAnswers = sigAnswersAfterReset s := rfl
@[simp] theorem resetEvent_resetLine : (resetEvent s).resetLine = false := rfl
@[simp] theorem resetEvent_extCall : (resetEvent s).extCall = s.extCall := rfl
@[simp] theorem resetEvent_extReply : (resetEvent s).extReply = s.extReply := rfl
@[simp] theorem resetEvent_calls : (resetEvent s).calls = s.calls := rfl
@[simp] theorem resetEvent_completions : (resetEvent s).completions = s.completions := rfl
@[simp] theorem resetEvent_resets : (resetEvent s).resets = s.resets + 1 := rfl

end Sys2Proof.Machine
end

