-- ==== Sys2Proof/Laws/Ops.lean ====
section
/-! SUPPORT. What each shared operation can do, said once: acceptance, fetching, another master's bus call, the issue of an
attempt, the sequencer's transitions phase by phase, and the step. -/

namespace Sys2Proof.Machine

variable {s t : State}

@[simp] theorem outcome_next_inj {a b : State} :
    ((Host.Outcome.next a : Out) = Host.Outcome.next b) ↔ a = b :=
  ⟨fun h => by injection h, fun h => by rw [h]⟩

theorem accept_next {n : State} : accept s n = .next t ↔ s.phase = .idle ∧ n = t := by
  unfold accept
  split <;> simp_all

theorem acceptTransfer_next {n : State} :
    acceptTransfer s n = .next t ↔ s.phase = .idle ∧ s.extCall = none ∧ n = t := by
  unfold acceptTransfer
  split
  · split <;> simp_all
  · simp_all

theorem otherTransaction_next {w : Xr} :
    otherTransaction w s = .next t ↔ s.phase = .idle ∧ s.extCall = none ∧
      otherAnswered { s with extCall := some w, calls := s.calls ++ [.other w] } = t := by
  unfold otherTransaction
  split <;> simp_all

/-- The bus's answer to another master changes only the answers left, the waiting call and its reply. -/
theorem otherAnswered_cases :
    (s.busAnswers = [] ∧ otherAnswered s = s) ∨
    ∃ a rest, s.busAnswers = a :: rest ∧
      otherAnswered s = { s with busAnswers := rest, extCall := none, extReply := some a } := by
  unfold otherAnswered
  split
  · exact .inl ⟨‹_›, rfl⟩
  · exact .inr ⟨_, _, ‹_›, rfl⟩

theorem fetch_some {x : Wire} (h : fetch s = some (x, t)) :
    s.extCall = none ∧ ∃ rest, s.inbox = x :: rest ∧ t = { s with inbox := rest } := by
  unfold fetch at h
  split at h
  · rename_i w rest he hi
    simp only [Option.some.injEq, Prod.mk.injEq] at h
    obtain ⟨rfl, rfl⟩ := h
    exact ⟨he, rest, hi, rfl⟩
  · cases h

theorem fetch_of_inbox {x : Wire} {rest : List Wire} (he : s.extCall = none) (hi : s.inbox = x :: rest) :
    fetch s = some (x, { s with inbox := rest }) := by
  simp [fetch, he, hi]

@[simp] theorem checksumOf_fail (c : Config) (f : Frame) : checksumOf c .fail f = none := rfl

@[simp] theorem checksumOf_ok (c : Config) (f : Frame) : checksumOf c .ok f = some (ck c f) := rfl

/-- `IssueRead` (R160). -/
theorem issueRead_eq : issueRead s =
    if s.attempt = s.cfg.retryBudget then raise .checksumExhausted s
    else sendAttempt (readCommand s) .rd .rdBus s := rfl

/-- `IssueWrite` (R160). -/
theorem issueWrite_eq : issueWrite s =
    if s.attempt = s.cfg.retryBudget then raise .checksumExhausted s
    else sendAttempt (writeCommand s) .wr .wrBus s := rfl

/-- Every signature has `SIG_LEN` bytes (R131). -/
theorem signature_length {c : Config} (h : c.wf = true) (f : Frame) : (signature c f).length = c.sigLen := by
  unfold signature
  split
  · rename_i s hs
    have hall : ∀ e ∈ c.sigKnown, e.2.length = c.sigLen := by
      simp only [Config.wf, Bool.and_eq_true, List.all_eq_true, decide_eq_true_eq] at h
      exact fun e he => (h.2 e he).2
    generalize c.sigKnown = l at hs hall
    induction l with
    | nil => cases hs
    | cons e l ih =>
      obtain ⟨k, v⟩ := e
      simp only [List.lookup] at hs
      split at hs
      · cases hs
        exact hall (k, s) (by simp)
      · exact ih hs fun e he => hall e (List.mem_cons_of_mem _ he)
  · simp

/-- A running, busy unit steps by its sequencer. -/
theorem step_busy (hr : Running s) (hp : s.phase ≠ .idle) : step s = .next (sequencer s) := by
  simp [step, advance, hr.1, hr.2, hp]

/-- A ready unit runs what is presented next. -/
theorem step_presented {x : Wire} {rest : List Wire} {i : Instr} (hr : Ready s) (hi : s.inbox = x :: rest)
    (hd : decode s.cfg x = .ok i) : step s = exec i { s with inbox := rest } := by
  simp [step, advance, runPresented, hr.1.1, hr.1.2, hr.2.1, fetch_of_inbox hr.2.2 hi, hd]

/-- Everything a step that answers a next state can be. -/
theorem step_cases (h : step s = .next t) :
    s.cfg.wf = true ∧
    ((s.resetLine = true ∧ t = resetEvent s) ∨
     (s.resetLine = false ∧ s.phase ≠ .idle ∧ t = sequencer s) ∨
     (s.resetLine = false ∧ s.phase = .idle ∧ fetch s = none ∧ t = idleWait s) ∨
     (s.resetLine = false ∧ s.phase = .idle ∧ s.extCall = none ∧
       ∃ x rest i, s.inbox = x :: rest ∧ decode s.cfg x = .ok i ∧ exec i { s with inbox := rest } = .next t) ∨
     (s.resetLine = false ∧ s.phase = .idle ∧ s.extCall = none ∧
       ∃ w rest, s.inbox = .command w :: rest ∧ otherTransaction w { s with inbox := rest } = .next t)) := by
  unfold step advance at h
  split at h
  · cases h
  · rename_i hc
    refine ⟨by simpa using hc, ?_⟩
    split at h
    · rename_i hl
      exact .inl ⟨hl, (outcome_next_inj.1 h).symm⟩
    · rename_i hl
      have hl' : s.resetLine = false := by simpa using hl
      split at h
      · rename_i hp
        exact .inr (.inl ⟨hl', hp, (outcome_next_inj.1 h).symm⟩)
      · rename_i hp
        have hp' : s.phase = .idle := by simpa using hp
        split at h
        · rename_i hf
          exact .inr (.inr (.inl ⟨hl', hp', hf, (outcome_next_inj.1 h).symm⟩))
        · rename_i x u hf
          obtain ⟨he, rest, hi, rfl⟩ := fetch_some hf
          unfold runPresented at h
          split at h
          · rename_i i hd
            exact .inr (.inr (.inr (.inl ⟨hl', hp', he, x, rest, i, hi, hd, h⟩)))
          · rename_i e hd
            cases x with
            | command w => exact .inr (.inr (.inr (.inr ⟨hl', hp', he, w, rest, hi, h⟩)))
            | request r => cases e <;> simp [rejected] at h

@[simp] theorem run_zero : run 0 s = .next s := rfl

/-- A run whose first step answers a next state goes on from there. -/
theorem run_succ {k : Nat} (h : step s = .next t) : run (k + 1) s = run k t := by
  have hc : Sys2Proof.core.step s = .next t := h
  simp only [run, Host.Core.run, hc]
  rfl

/-- Runs compose. -/
theorem run_add {a b : Nat} (h : run a s = .next t) : run (a + b) s = run b t := by
  induction a generalizing s with
  | zero =>
    rw [run_zero, outcome_next_inj] at h
    rw [h, Nat.zero_add]
  | succ a ih =>
    rw [Nat.add_right_comm]
    cases hs : step s with
    | next u =>
      rw [run_succ hs] at h ⊢
      exact ih h
    | fault r => cases r
    | refused r =>
      have hc : Sys2Proof.core.step s = .refused r := hs
      simp only [run, Host.Core.run, hc] at h
      cases h

/-- What the sequencer does in `CK_SIG` (T2, T3). -/
theorem checksumAnswered_cases :
    (s.sigAnswers = [] ∧ checksumAnswered s = s) ∨
    (∃ rest, s.sigAnswers = .fail :: rest ∧
      checksumAnswered s = raise .checksumUnavailable { s with sigAnswers := rest }) ∨
    (∃ rest, s.sigAnswers = .ok :: rest ∧
      checksumAnswered s =
        completeOk { status := .ok, qCsum := some (ck s.cfg s.ckData) } { s with sigAnswers := rest }) := by
  unfold checksumAnswered
  split
  · exact .inl ⟨‹_›, rfl⟩
  · rename_i a rest h
    cases a
    · exact .inr (.inl ⟨rest, h, rfl⟩)
    · exact .inr (.inr ⟨rest, h, rfl⟩)

/-- What the sequencer does in `RD_BUS` (T5). -/
theorem readAnswered_cases :
    (s.busAnswers = [] ∧ readAnswered s = s) ∨
    (∃ a rest, s.busAnswers = a :: rest ∧
      readAnswered s =
        callSig a.buffer { s with busAnswers := rest, xrsp := a.response, fbuf := a.buffer, phase := .rdSig }) := by
  unfold readAnswered
  split
  · exact .inl ⟨‹_›, rfl⟩
  · exact .inr ⟨_, _, ‹_›, rfl⟩

/-- What the sequencer does in `RD_SIG` (T6 to T9). -/
theorem readChecked_cases :
    (s.sigAnswers = [] ∧ readChecked s = s) ∨
    (∃ rest, s.sigAnswers = .fail :: rest ∧
      readChecked s = raise .checksumUnavailable { s with sigAnswers := rest }) ∨
    (∃ rest, s.sigAnswers = .ok :: rest ∧
      readChecked s = judgeRead { s with sigAnswers := rest, csum := ck s.cfg s.fbuf }) := by
  unfold readChecked
  split
  · exact .inl ⟨‹_›, rfl⟩
  · rename_i a rest h
    cases a
    · exact .inr (.inl ⟨rest, h, rfl⟩)
    · exact .inr (.inr ⟨rest, h, rfl⟩)

/-- The tests of a read attempt (T7 to T9). -/
theorem judgeRead_cases :
    (s.csum ≠ Xr.checksum s.xrsp ∧ s.attempt = s.cfg.retryBudget ∧ judgeRead s = raise .checksumExhausted s) ∨
    (s.csum ≠ Xr.checksum s.xrsp ∧ s.attempt ≠ s.cfg.retryBudget ∧
      judgeRead s = sendAttempt (readCommand s) .rd .rdBus s) ∨
    (s.csum = Xr.checksum s.xrsp ∧ responseFails s.cfg s.xrsp = true ∧ judgeRead s = raise .deviceError s) ∨
    (s.csum = Xr.checksum s.xrsp ∧ responseFails s.cfg s.xrsp = false ∧
      judgeRead s = completeOk { status := .ok, qData := some s.fbuf } s) := by
  unfold judgeRead issueRead
  by_cases hm : s.csum = Xr.checksum s.xrsp
  · cases hf : responseFails s.cfg s.xrsp <;> simp [hm]
  · by_cases ha : s.attempt = s.cfg.retryBudget <;> simp [hm, ha]

/-- What the sequencer does in `WR_SIG` (T11, T12). -/
theorem writeChecked_cases :
    (s.sigAnswers = [] ∧ writeChecked s = s) ∨
    (∃ rest, s.sigAnswers = .fail :: rest ∧
      writeChecked s = raise .checksumUnavailable { s with sigAnswers := rest }) ∨
    (∃ rest, s.sigAnswers = .ok :: rest ∧
      writeChecked s = issueWrite { s with sigAnswers := rest, csum := ck s.cfg s.fbuf }) := by
  unfold writeChecked
  split
  · exact .inl ⟨‹_›, rfl⟩
  · rename_i a rest h
    cases a
    · exact .inr (.inl ⟨rest, h, rfl⟩)
    · exact .inr (.inr ⟨rest, h, rfl⟩)

/-- What the sequencer does in `WR_BUS` (T13 to T15). -/
theorem writeAnswered_cases :
    (s.busAnswers = [] ∧ writeAnswered s = s) ∨
    (∃ a rest, s.busAnswers = a :: rest ∧
      writeAnswered s = judgeWrite { s with busAnswers := rest, xrsp := a.response }) := by
  unfold writeAnswered
  split
  · exact .inl ⟨‹_›, rfl⟩
  · exact .inr ⟨_, _, ‹_›, rfl⟩

/-- The tests of a write attempt (T13 to T15). -/
theorem judgeWrite_cases :
    (Xr.checksum s.xrsp ≠ s.csum ∧ s.attempt = s.cfg.retryBudget ∧ judgeWrite s = raise .checksumExhausted s) ∨
    (Xr.checksum s.xrsp ≠ s.csum ∧ s.attempt ≠ s.cfg.retryBudget ∧
      judgeWrite s = sendAttempt (writeCommand s) .wr .wrBus s) ∨
    (Xr.checksum s.xrsp = s.csum ∧ responseFails s.cfg s.xrsp = true ∧ judgeWrite s = raise .deviceError s) ∨
    (Xr.checksum s.xrsp = s.csum ∧ responseFails s.cfg s.xrsp = false ∧
      judgeWrite s = completeOk { status := .ok } s) := by
  unfold judgeWrite issueWrite
  by_cases hm : Xr.checksum s.xrsp = s.csum
  · cases hf : responseFails s.cfg s.xrsp <;> simp [hm]
  · by_cases ha : s.attempt = s.cfg.retryBudget <;> simp [hm, ha]

/-- Everything a busy unit's sequencer can do (T2, T3, T5 to T9, T11 to T15, R246): it waits; it raises
`ChecksumUnavailable` on a failed signature call; or it takes the answer its phase waits for. -/
theorem sequencer_cases (hp : s.phase ≠ .idle) :
    sequencer s = s ∨
    (∃ rest, (s.phase = .ckSig ∨ s.phase = .rdSig ∨ s.phase = .wrSig) ∧ s.sigAnswers = .fail :: rest ∧
      sequencer s = raise .checksumUnavailable { s with sigAnswers := rest }) ∨
    (∃ rest, s.phase = .ckSig ∧ s.sigAnswers = .ok :: rest ∧
      sequencer s =
        completeOk { status := .ok, qCsum := some (ck s.cfg s.ckData) } { s with sigAnswers := rest }) ∨
    (∃ a rest, s.phase = .rdBus ∧ s.busAnswers = a :: rest ∧
      sequencer s =
        callSig a.buffer { s with busAnswers := rest, xrsp := a.response, fbuf := a.buffer, phase := .rdSig }) ∨
    (∃ rest, s.phase = .rdSig ∧ s.sigAnswers = .ok :: rest ∧
      sequencer s = judgeRead { s with sigAnswers := rest, csum := ck s.cfg s.fbuf }) ∨
    (∃ rest, s.phase = .wrSig ∧ s.sigAnswers = .ok :: rest ∧
      sequencer s = issueWrite { s with sigAnswers := rest, csum := ck s.cfg s.fbuf }) ∨
    (∃ a rest, s.phase = .wrBus ∧ s.busAnswers = a :: rest ∧
      sequencer s = judgeWrite { s with busAnswers := rest, xrsp := a.response }) := by
  have key : ∀ p, s.phase = p → sequencer s =
      match p with
      | .idle => s
      | .ckSig => checksumAnswered s
      | .rdBus => readAnswered s
      | .rdSig => readChecked s
      | .wrSig => writeChecked s
      | .wrBus => writeAnswered s := by
    rintro p rfl
    rfl
  generalize hq : s.phase = p at *
  specialize key p rfl
  cases p with
  | idle => exact absurd rfl hp
  | ckSig =>
    rcases checksumAnswered_cases (s := s) with ⟨_, e⟩ | ⟨r, h, e⟩ | ⟨r, h, e⟩
    · exact .inl (key.trans e)
    · exact .inr (.inl ⟨r, .inl rfl, h, key.trans e⟩)
    · exact .inr (.inr (.inl ⟨r, rfl, h, key.trans e⟩))
  | rdBus =>
    rcases readAnswered_cases (s := s) with ⟨_, e⟩ | ⟨a, r, h, e⟩
    · exact .inl (key.trans e)
    · exact .inr (.inr (.inr (.inl ⟨a, r, rfl, h, key.trans e⟩)))
  | rdSig =>
    rcases readChecked_cases (s := s) with ⟨_, e⟩ | ⟨r, h, e⟩ | ⟨r, h, e⟩
    · exact .inl (key.trans e)
    · exact .inr (.inl ⟨r, .inr (.inl rfl), h, key.trans e⟩)
    · exact .inr (.inr (.inr (.inr (.inl ⟨r, rfl, h, key.trans e⟩))))
  | wrSig =>
    rcases writeChecked_cases (s := s) with ⟨_, e⟩ | ⟨r, h, e⟩ | ⟨r, h, e⟩
    · exact .inl (key.trans e)
    · exact .inr (.inl ⟨r, .inr (.inr rfl), h, key.trans e⟩)
    · exact .inr (.inr (.inr (.inr (.inr (.inl ⟨r, rfl, h, key.trans e⟩)))))
  | wrBus =>
    rcases writeAnswered_cases (s := s) with ⟨_, e⟩ | ⟨a, r, h, e⟩
    · exact .inl (key.trans e)
    · exact .inr (.inr (.inr (.inr (.inr (.inr ⟨a, r, rfl, h, key.trans e⟩)))))

/-- Everything an instruction can do when an idle unit runs it: a codec operation completes (R119), a request of the other
three is accepted (T1, T4, T10), or a command word is another master's bus call (R189). -/
theorem exec_idle_cases {i : Instr} (hp : s.phase = .idle) (h : exec i s = .next t) :
    (∃ k : Completion, k.status = .ok ∧ k.qData = none ∧ t = complete k s) ∨
    (∃ B, i = .checksum B ∧ t = callSig B { s with ckData := B, phase := .ckSig }) ∨
    (∃ f, i = .readFrame f ∧ s.extCall = none ∧ t = issueRead { s with fidx := f, attempt := 0 }) ∨
    (∃ f B, i = .writeFrame f B ∧ s.extCall = none ∧
      t = callSig B { s with fidx := f, fbuf := B, attempt := 0, phase := .wrSig }) ∨
    (∃ w, otherTransaction w s = .next t) := by
  cases i with
  | init k k2 r => exact .inr (.inr (.inr (.inr ⟨_, h⟩)))
  | zeroBlock k k2 r => exact .inr (.inr (.inr (.inr ⟨_, h⟩)))
  | rdframe f cs r =>
    refine .inr (.inr (.inr (.inr ⟨Xr.pack s.cfg.opReadFrame f cs r, ?_⟩)))
    simpa [exec, execRdframe, hp] using h
  | wrframe f cs r =>
    refine .inr (.inr (.inr (.inr ⟨Xr.pack s.cfg.opWriteFrame f cs r, ?_⟩)))
    simpa [exec, execWrframe, hp] using h
  | powoff k k2 r => exact .inr (.inr (.inr (.inr ⟨_, h⟩)))
  | encode o f c r => exact .inl ⟨_, rfl, rfl, (accept_next.1 h).2.symm⟩
  | decodeResult reg => exact .inl ⟨_, rfl, rfl, (accept_next.1 h).2.symm⟩
  | decodeChecksum reg => exact .inl ⟨_, rfl, rfl, (accept_next.1 h).2.symm⟩
  | decodeOp reg => exact .inl ⟨_, rfl, rfl, (accept_next.1 h).2.symm⟩
  | decodeFrame reg => exact .inl ⟨_, rfl, rfl, (accept_next.1 h).2.symm⟩
  | checksum B => exact .inr (.inl ⟨B, rfl, (accept_next.1 h).2.symm⟩)
  | readFrame f =>
    obtain ⟨_, he, ht⟩ := acceptTransfer_next.1 h
    exact .inr (.inr (.inl ⟨f, rfl, he, ht.symm⟩))
  | writeFrame f B =>
    obtain ⟨_, he, ht⟩ := acceptTransfer_next.1 h
    exact .inr (.inr (.inr (.inl ⟨f, B, rfl, he, ht.symm⟩)))

end Sys2Proof.Machine
end

