-- ==== Sys2Proof/Laws/Effect.lean ====
section
/-! SUPPORT. Everything a step can do, said once: one case per transition of 42_frame_transfer.md R160 (T1 to T15), per
other master's bus call (R189), the wait and the reset event. `cases step_effect h` takes a step apart. -/

namespace Sys2Proof.Machine

variable {s t : State}

/-- `Effect s t`: how a step from `s` can come to `t`. -/
inductive Effect (s : State) : State → Prop where
  /-- The reset event (R230, R231). -/
  | reset (hr : s.resetLine = true) : Effect s (resetEvent s)
  /-- A busy unit waits for a neighbour (R246). -/
  | wait (hr : s.resetLine = false) (hp : s.phase ≠ .idle)
      (hw : (s.phase = .rdBus ∨ s.phase = .wrBus) ∧ s.busAnswers = [] ∨
        (s.phase = .ckSig ∨ s.phase = .rdSig ∨ s.phase = .wrSig) ∧ s.sigAnswers = []) : Effect s s
  /-- An idle unit with nothing to accept (R230). -/
  | idle (hr : s.resetLine = false) (hp : s.phase = .idle) (hf : fetch s = none) : Effect s s
  /-- T2, T6, T11: the signature call fails. -/
  | sigFails (rest : List SigAnswer) (hr : s.resetLine = false)
      (hp : s.phase = .ckSig ∨ s.phase = .rdSig ∨ s.phase = .wrSig) (hs : s.sigAnswers = .fail :: rest) :
      Effect s (raise .checksumUnavailable { s with sigAnswers := rest })
  /-- T3. -/
  | checksum (rest : List SigAnswer) (hr : s.resetLine = false) (hp : s.phase = .ckSig)
      (hs : s.sigAnswers = .ok :: rest) :
      Effect s (completeOk { status := .ok, qCsum := some (ck s.cfg s.ckData) } { s with sigAnswers := rest })
  /-- T5. -/
  | readResponse (a : BusAnswer) (rest : List BusAnswer) (hr : s.resetLine = false) (hp : s.phase = .rdBus)
      (hb : s.busAnswers = a :: rest) :
      Effect s (callSig a.buffer
        { s with busAnswers := rest, xrsp := a.response, fbuf := a.buffer, phase := .rdSig })
  /-- T7 at the end of the budget. -/
  | readExhausted (rest : List SigAnswer) (hr : s.resetLine = false) (hp : s.phase = .rdSig)
      (hs : s.sigAnswers = .ok :: rest) (hm : ck s.cfg s.fbuf ≠ Xr.checksum s.xrsp)
      (ha : s.attempt = s.cfg.retryBudget) :
      Effect s (raise .checksumExhausted { s with sigAnswers := rest, csum := ck s.cfg s.fbuf })
  /-- T7 within the budget. -/
  | readRetry (rest : List SigAnswer) (hr : s.resetLine = false) (hp : s.phase = .rdSig)
      (hs : s.sigAnswers = .ok :: rest) (hm : ck s.cfg s.fbuf ≠ Xr.checksum s.xrsp)
      (ha : s.attempt ≠ s.cfg.retryBudget) :
      Effect s (sendAttempt (readCommand s) .rd .rdBus { s with sigAnswers := rest, csum := ck s.cfg s.fbuf })
  /-- T8. -/
  | readError (rest : List SigAnswer) (hr : s.resetLine = false) (hp : s.phase = .rdSig)
      (hs : s.sigAnswers = .ok :: rest) (hm : ck s.cfg s.fbuf = Xr.checksum s.xrsp)
      (hf : responseFails s.cfg s.xrsp = true) :
      Effect s (raise .deviceError { s with sigAnswers := rest, csum := ck s.cfg s.fbuf })
  /-- T9. -/
  | readOk (rest : List SigAnswer) (hr : s.resetLine = false) (hp : s.phase = .rdSig)
      (hs : s.sigAnswers = .ok :: rest) (hm : ck s.cfg s.fbuf = Xr.checksum s.xrsp)
      (hf : responseFails s.cfg s.xrsp = false) :
      Effect s (completeOk { status := .ok, qData := some s.fbuf }
        { s with sigAnswers := rest, csum := ck s.cfg s.fbuf })
  /-- T12 with no attempt left: only in states no run reaches. -/
  | writeUnsent (rest : List SigAnswer) (hr : s.resetLine = false) (hp : s.phase = .wrSig)
      (hs : s.sigAnswers = .ok :: rest) (ha : s.attempt = s.cfg.retryBudget) :
      Effect s (raise .checksumExhausted { s with sigAnswers := rest, csum := ck s.cfg s.fbuf })
  /-- T12. -/
  | writeSend (rest : List SigAnswer) (hr : s.resetLine = false) (hp : s.phase = .wrSig)
      (hs : s.sigAnswers = .ok :: rest) (ha : s.attempt ≠ s.cfg.retryBudget) :
      Effect s (sendAttempt (Xr.pack s.cfg.opWriteFrame s.fidx (ck s.cfg s.fbuf) 0) .wr .wrBus
        { s with sigAnswers := rest, csum := ck s.cfg s.fbuf })
  /-- T13 at the end of the budget. -/
  | writeExhausted (a : BusAnswer) (rest : List BusAnswer) (hr : s.resetLine = false) (hp : s.phase = .wrBus)
      (hb : s.busAnswers = a :: rest) (hm : Xr.checksum a.response ≠ s.csum) (ha : s.attempt = s.cfg.retryBudget) :
      Effect s (raise .checksumExhausted { s with busAnswers := rest, xrsp := a.response })
  /-- T13 within the budget. -/
  | writeRetry (a : BusAnswer) (rest : List BusAnswer) (hr : s.resetLine = false) (hp : s.phase = .wrBus)
      (hb : s.busAnswers = a :: rest) (hm : Xr.checksum a.response ≠ s.csum) (ha : s.attempt ≠ s.cfg.retryBudget) :
      Effect s (sendAttempt (writeCommand s) .wr .wrBus { s with busAnswers := rest, xrsp := a.response })
  /-- T14. -/
  | writeError (a : BusAnswer) (rest : List BusAnswer) (hr : s.resetLine = false) (hp : s.phase = .wrBus)
      (hb : s.busAnswers = a :: rest) (hm : Xr.checksum a.response = s.csum)
      (hf : responseFails s.cfg a.response = true) :
      Effect s (raise .deviceError { s with busAnswers := rest, xrsp := a.response })
  /-- T15. -/
  | writeOk (a : BusAnswer) (rest : List BusAnswer) (hr : s.resetLine = false) (hp : s.phase = .wrBus)
      (hb : s.busAnswers = a :: rest) (hm : Xr.checksum a.response = s.csum)
      (hf : responseFails s.cfg a.response = false) :
      Effect s (completeOk { status := .ok } { s with busAnswers := rest, xrsp := a.response })
  /-- Another master's waiting call is answered (R189). -/
  | otherAnswer (w : Xr) (a : BusAnswer) (rest : List BusAnswer) (hr : s.resetLine = false) (hp : s.phase = .idle)
      (he : s.extCall = some w) (hb : s.busAnswers = a :: rest) :
      Effect s { s with busAnswers := rest, extCall := none, extReply := some a }
  /-- Another master's call is made and answered (R189). -/
  | otherCall (x : Wire) (inbox : List Wire) (w : Xr) (a : BusAnswer) (rest : List BusAnswer)
      (hr : s.resetLine = false) (hp : s.phase = .idle) (he : s.extCall = none) (hi : s.inbox = x :: inbox)
      (hb : s.busAnswers = a :: rest) :
      Effect s { s with
        inbox := inbox, busAnswers := rest, extCall := none, extReply := some a, calls := s.calls ++ [.other w] }
  /-- Another master's call is made and waits (R189). -/
  | otherWait (x : Wire) (inbox : List Wire) (w : Xr) (hr : s.resetLine = false) (hp : s.phase = .idle)
      (he : s.extCall = none) (hi : s.inbox = x :: inbox) (hb : s.busAnswers = []) :
      Effect s { s with inbox := inbox, extCall := some w, calls := s.calls ++ [.other w] }
  /-- A codec operation (R119). -/
  | codec (x : Wire) (inbox : List Wire) (k : Completion) (hr : s.resetLine = false) (hp : s.phase = .idle)
      (he : s.extCall = none) (hi : s.inbox = x :: inbox) (hk : k.status = .ok) (hq : k.qData = none) :
      Effect s (complete k { s with inbox := inbox })
  /-- T1. -/
  | acceptChecksum (x : Wire) (inbox : List Wire) (B : Frame) (hr : s.resetLine = false) (hp : s.phase = .idle)
      (he : s.extCall = none) (hi : s.inbox = x :: inbox) (hB : Frame.wf s.cfg.frameSize B = true) :
      Effect s (callSig B { s with inbox := inbox, ckData := B, phase := .ckSig })
  /-- T4. -/
  | acceptRead (x : Wire) (inbox : List Wire) (f : BitVec 16) (hr : s.resetLine = false) (hp : s.phase = .idle)
      (he : s.extCall = none) (hi : s.inbox = x :: inbox) :
      Effect s (sendAttempt (Xr.pack s.cfg.opReadFrame f 0 0) .rd .rdBus
        { s with inbox := inbox, fidx := f, attempt := 0 })
  /-- T10. -/
  | acceptWrite (x : Wire) (inbox : List Wire) (f : BitVec 16) (B : Frame) (hr : s.resetLine = false)
      (hp : s.phase = .idle) (he : s.extCall = none) (hi : s.inbox = x :: inbox)
      (hB : Frame.wf s.cfg.frameSize B = true) :
      Effect s (callSig B { s with inbox := inbox, fidx := f, fbuf := B, attempt := 0, phase := .wrSig })

/-- `RETRY_BUDGET` is at least 1 (R8). -/
theorem budget_pos {c : Config} (h : c.wf = true) : 1 ≤ c.retryBudget := by
  simp only [Config.wf, Bool.and_eq_true, decide_eq_true_eq] at h
  exact h.1.1.1.1.2

/-- What the decoder gives is well formed (R239). -/
theorem decode_wellFormed {c : Config} {x : Wire} {i : Instr} (h : decode c x = .ok i) : WellFormed c i = true := by
  cases x with
  | command w =>
    simp only [decode, decodeCommand] at h
    repeat' split at h
    all_goals first
      | (injection h with h; subst h; rfl)
      | cases h
  | request r =>
    simp only [decode, decodeRequest] at h
    split at h
    all_goals first
      | (injection h with h; subst h; rfl)
      | (split at h <;> first | (injection h with h; subst h; assumption) | cases h)
      | cases h

/-- Another master's call, from an idle unit that took it from the inbox. -/
theorem otherTransaction_effect {x : Wire} {rest : List Wire} {w : Xr} (hr : s.resetLine = false)
    (hi : s.inbox = x :: rest) (h : otherTransaction w { s with inbox := rest } = .next t) : Effect s t := by
  obtain ⟨hp, he, rfl⟩ := otherTransaction_next.1 h
  rcases otherAnswered_cases (s := { s with inbox := rest, extCall := some w, calls := s.calls ++ [.other w] }) with
    ⟨hb, e⟩ | ⟨a, r, hb, e⟩ <;> rw [e]
  · exact .otherWait x rest w hr hp he hi hb
  · exact .otherCall x rest w a r hr hp he hi hb

/-- A busy unit's step. -/
theorem sequencer_effect (hr : s.resetLine = false) (hp : s.phase ≠ .idle) : Effect s (sequencer s) := by
  rcases hq : s.phase with _ | _ | _ | _ | _ | _
  · exact absurd hq hp
  · simp only [sequencer, hq]
    rcases checksumAnswered_cases (s := s) with ⟨h, e⟩ | ⟨r, h, e⟩ | ⟨r, h, e⟩ <;> rw [e]
    · exact .wait hr hp (.inr ⟨.inl hq, h⟩)
    · exact .sigFails r hr (.inl hq) h
    · exact .checksum r hr hq h
  · simp only [sequencer, hq]
    rcases readAnswered_cases (s := s) with ⟨h, e⟩ | ⟨a, r, h, e⟩ <;> rw [e]
    · exact .wait hr hp (.inl ⟨.inl hq, h⟩)
    · exact .readResponse a r hr hq h
  · simp only [sequencer, hq]
    rcases readChecked_cases (s := s) with ⟨h, e⟩ | ⟨r, h, e⟩ | ⟨r, h, e⟩ <;> rw [e]
    · exact .wait hr hp (.inr ⟨.inr (.inl hq), h⟩)
    · exact .sigFails r hr (.inr (.inl hq)) h
    · rcases judgeRead_cases (s := { s with sigAnswers := r, csum := ck s.cfg s.fbuf }) with
        ⟨hm, ha, e⟩ | ⟨hm, ha, e⟩ | ⟨hm, hf, e⟩ | ⟨hm, hf, e⟩ <;> rw [e]
      · exact .readExhausted r hr hq h hm ha
      · exact .readRetry r hr hq h hm ha
      · exact .readError r hr hq h hm hf
      · exact .readOk r hr hq h hm hf
  · simp only [sequencer, hq]
    rcases writeChecked_cases (s := s) with ⟨h, e⟩ | ⟨r, h, e⟩ | ⟨r, h, e⟩ <;> rw [e]
    · exact .wait hr hp (.inr ⟨.inr (.inr hq), h⟩)
    · exact .sigFails r hr (.inr (.inr hq)) h
    · rw [issueWrite_eq]
      split
      · exact .writeUnsent r hr hq h ‹_›
      · exact .writeSend r hr hq h ‹_›
  · simp only [sequencer, hq]
    rcases writeAnswered_cases (s := s) with ⟨h, e⟩ | ⟨a, r, h, e⟩ <;> rw [e]
    · exact .wait hr hp (.inl ⟨.inr hq, h⟩)
    · rcases judgeWrite_cases (s := { s with busAnswers := r, xrsp := a.response }) with
        ⟨hm, ha, e⟩ | ⟨hm, ha, e⟩ | ⟨hm, hf, e⟩ | ⟨hm, hf, e⟩ <;> rw [e]
      · exact .writeExhausted a r hr hq h hm ha
      · exact .writeRetry a r hr hq h hm ha
      · exact .writeError a r hr hq h hm hf
      · exact .writeOk a r hr hq h hm hf

/-- Every step that answers a next state is one of the cases of `Effect`. -/
theorem step_effect (h : step s = .next t) : Effect s t := by
  obtain ⟨hc, h⟩ := step_cases h
  rcases h with ⟨hr, rfl⟩ | ⟨hr, hp, rfl⟩ | ⟨hr, hp, hf, rfl⟩ | ⟨hr, hp, he, x, rest, i, hi, hd, h⟩ |
    ⟨hr, hp, he, w, rest, hi, h⟩
  · exact .reset hr
  · exact sequencer_effect hr hp
  · unfold idleWait
    split
    · exact .idle hr hp hf
    · rename_i he
      obtain ⟨w, he⟩ := Option.ne_none_iff_exists'.1 he
      rcases otherAnswered_cases (s := s) with ⟨hb, e⟩ | ⟨a, r, hb, e⟩ <;> rw [e]
      · exact .idle hr hp hf
      · exact .otherAnswer w a r hr hp he hb
  · have hw := decode_wellFormed hd
    rcases exec_idle_cases (s := { s with inbox := rest }) hp h with
      ⟨k, hk, hq, rfl⟩ | ⟨B, rfl, rfl⟩ | ⟨f, rfl, _, rfl⟩ | ⟨f, B, rfl, _, rfl⟩ | ⟨w, h⟩
    · exact .codec x rest k hr hp he hi hk hq
    · exact .acceptChecksum x rest B hr hp he hi hw
    · have hb : (0 : Nat) ≠ s.cfg.retryBudget := by
        have := budget_pos hc
        omega
      rw [issueRead_eq, if_neg hb]
      exact .acceptRead x rest f hr hp he hi
    · exact .acceptWrite x rest f B hr hp he hi hw
    · exact otherTransaction_effect hr hi h
  · exact otherTransaction_effect hr hi h

end Sys2Proof.Machine
end

