-- ==== Sys2Proof/Laws/PerInstr.lean ====
section
/-! SUPPORT. One statement about each instruction as syntax: what presents it decodes to an instruction of its own row of
the opcode table, never of a neighbour's (30_encoding.md R94, R95). -/

namespace Sys2Proof.Laws.OwnRow

/-- Under parameters that meet R8, a well-formed instruction's encoding decodes to an instruction of the same row. -/
def Statement (i : Instr) : Prop :=
  ∀ c : Config, c.wf = true → WellFormed c i = true →
    ∃ j, decode c (encode c i) = .ok j ∧ j.mnemonic = i.mnemonic

/-- The five operation codes are pairwise distinct (R8). -/
theorem opCodes_distinct {c : Config} (h : c.wf = true) :
    c.opZeroBlock ≠ c.opInit ∧ c.opReadFrame ≠ c.opInit ∧ c.opWriteFrame ≠ c.opInit ∧ c.opPowerOff ≠ c.opInit ∧
    c.opReadFrame ≠ c.opZeroBlock ∧ c.opWriteFrame ≠ c.opZeroBlock ∧ c.opPowerOff ≠ c.opZeroBlock ∧
    c.opWriteFrame ≠ c.opReadFrame ∧ c.opPowerOff ≠ c.opReadFrame ∧ c.opPowerOff ≠ c.opWriteFrame := by
  simp only [Config.wf, Config.opCodes, Config.distinct, Bool.and_eq_true, List.all_eq_true,
    decide_eq_true_eq] at h
  simp_all

theorem init (k : BitVec 16) (k2 : BitVec 32) (r : BitVec 8) : Statement (.init k k2 r) := by
  intro c _ _
  exact ⟨.init k k2 r, by simp [decode, encode, decodeCommand], rfl⟩

theorem zeroBlock (k : BitVec 16) (k2 : BitVec 32) (r : BitVec 8) : Statement (.zeroBlock k k2 r) := by
  intro c hc _
  have h := opCodes_distinct hc
  exact ⟨.zeroBlock k k2 r, by simp [decode, encode, decodeCommand, h], rfl⟩

theorem rdframe (f : BitVec 16) (cs : BitVec 32) (r : BitVec 8) : Statement (.rdframe f cs r) := by
  intro c hc _
  have h := opCodes_distinct hc
  exact ⟨.rdframe f cs r, by simp [decode, encode, decodeCommand, h], rfl⟩

theorem wrframe (f : BitVec 16) (cs : BitVec 32) (r : BitVec 8) : Statement (.wrframe f cs r) := by
  intro c hc _
  have h := opCodes_distinct hc
  exact ⟨.wrframe f cs r, by simp [decode, encode, decodeCommand, h], rfl⟩

theorem powoff (k : BitVec 16) (k2 : BitVec 32) (r : BitVec 8) : Statement (.powoff k k2 r) := by
  intro c hc _
  have h := opCodes_distinct hc
  exact ⟨.powoff k k2 r, by simp [decode, encode, decodeCommand, h], rfl⟩

theorem encode (o : BitVec 8) (f : BitVec 16) (cs : BitVec 32) (r : BitVec 8) : Statement (.encode o f cs r) :=
  fun _ _ _ => ⟨_, rfl, rfl⟩

theorem decodeResult (reg : Xr) : Statement (.decodeResult reg) :=
  fun _ _ _ => ⟨_, rfl, rfl⟩

theorem decodeChecksum (reg : Xr) : Statement (.decodeChecksum reg) :=
  fun _ _ _ => ⟨_, rfl, rfl⟩

theorem decodeOp (reg : Xr) : Statement (.decodeOp reg) :=
  fun _ _ _ => ⟨_, rfl, rfl⟩

theorem decodeFrame (reg : Xr) : Statement (.decodeFrame reg) :=
  fun _ _ _ => ⟨_, rfl, rfl⟩

theorem checksum (data : Frame) : Statement (.checksum data) := by
  intro c _ hw
  refine ⟨.checksum data, ?_, rfl⟩
  simpa [decode, Sys2Proof.encode, decodeRequest, WellFormed] using hw

theorem readFrame (f : BitVec 16) : Statement (.readFrame f) :=
  fun _ _ _ => ⟨_, rfl, rfl⟩

theorem writeFrame (f : BitVec 16) (data : Frame) : Statement (.writeFrame f data) := by
  intro c _ hw
  refine ⟨.writeFrame f data, ?_, rfl⟩
  simpa [decode, Sys2Proof.encode, decodeRequest, WellFormed] using hw

end Sys2Proof.Laws.OwnRow
end

