-- ==== Sys2Proof/Tests/Slice0.lean ====
section
/-! SUPPORT. Tests: refused terms, words written out from the spec's encodings, the spec's vectors (95_test_vectors.md) one
step at a time, and a witness for every statement that has hypotheses. Every expected value is the spec's. -/

open Sys2Proof Sys2Proof.Machine

namespace Sys2Proof.Tests

/-! ### Frames, parameters and small states -/

/-- The frame `Z` of 95_test_vectors.md: all bytes zero. -/
def frameZ : Frame := []
/-- The frame `H`: "hello", then zeros. -/
def frameH : Frame := [(0, 0x68), (1, 0x65), (2, 0x6C), (3, 0x6C), (4, 0x6F)]
/-- The frame `H'` of V51, with the byte sum of `H`. -/
def frameHRev : Frame := [(0, 0x6F), (1, 0x6C), (2, 0x6C), (3, 0x65), (4, 0x68)]

/-- The parameters of the vectors: the defaults with `SIG_T` on `Z`, `H` and `H'`, and a retry budget. -/
def cfgT (budget : Nat) : Config :=
  { Config.default with
    retryBudget := budget
    sigKnown := [(frameZ, [0x00, 0x00, 0xDE, 0xC0]), (frameH, [0x14, 0x02, 0xDE, 0xC0]),
      (frameHRev, [0x14, 0x02, 0xDE, 0xC0])] }

/-- An idle unit with what is presented and what its neighbours will answer. -/
def idleT (budget : Nat) (inbox : List Wire) (bus : List BusAnswer) (sig : List SigAnswer) : State :=
  { State.reset with
    cfg := cfgT budget
    fidx := 0
    fbuf := frameZ
    csum := 0
    xcmd := 0
    xrsp := 0
    inbox := inbox
    busAnswers := bus
    sigAnswers := sig }

/-- `READ_FRAME 0x0005` with attempt `n` outstanding at the bus. -/
def rdBusT (budget n : Nat) (bus : List BusAnswer) : State :=
  { idleT budget [] bus [] with phase := .rdBus, attempt := n, fidx := 5, xcmd := 0x0200050000000000 }

/-- The same read when the bus has answered `w` and the buffer `B`. -/
def rdSigT (budget n : Nat) (w : Xr) (B : Frame) (sig : List SigAnswer) : State :=
  { rdBusT budget n [] with phase := .rdSig, xrsp := w, fbuf := B, sigAnswers := sig }

/-- `WRITE_FRAME 0x0007, H` waiting for the checksum of `H`. -/
def wrSigT (budget : Nat) (sig : List SigAnswer) : State :=
  { idleT budget [] [] sig with phase := .wrSig, fidx := 7, fbuf := frameH }

/-- The same write with attempt `n` outstanding at the bus. -/
def wrBusT (budget n : Nat) (bus : List BusAnswer) : State :=
  { wrSigT budget [] with
    phase := .wrBus, attempt := n, csum := 0xC0DE0214, xcmd := 0x030007C0DE021400, busAnswers := bus }

/-- `CHECKSUM B` waiting for the signature. -/
def ckSigT (B : Frame) (sig : List SigAnswer) : State :=
  { idleT 3 [] [] sig with phase := .ckSig, ckData := B }

/-- The next state of an outcome. -/
def next? : Out → Option State
  | .next s => some s
  | .fault _ => none
  | .refused _ => none

/-- The refusal of an outcome. -/
def refusal? : Out → Option Refusal
  | .next _ => none
  | .fault _ => none
  | .refused r => some r

/-- The last completion after an outcome. -/
def lastDone (o : Out) : Option Completion :=
  (next? o).bind (·.completions.getLast?)

/-- The last call after an outcome. -/
def lastCall (o : Out) : Option Call :=
  (next? o).bind (·.calls.getLast?)

/-! ### WellFormed and Config.wf refuse each ill-formed term -/

theorem test_wellFormed_accepts : WellFormed (cfgT 3) (.checksum frameH) = true ∧
    WellFormed (cfgT 3) (.writeFrame 0xFFFF [(4095, 1)]) = true := by decide

theorem test_wellFormed_refuses_checksum_operand :
    WellFormed (cfgT 3) (.checksum [(4096, 1)]) = false ∧
    WellFormed (cfgT 3) (.checksum [(1, 1), (0, 1)]) = false ∧
    WellFormed (cfgT 3) (.checksum [(1, 1), (1, 2)]) = false ∧
    WellFormed (cfgT 3) (.checksum [(0, 0)]) = false := by decide

theorem test_wellFormed_refuses_write_operand :
    WellFormed (cfgT 3) (.writeFrame 0 [(4096, 1)]) = false ∧
    WellFormed (cfgT 3) (.writeFrame 0 [(1, 1), (0, 1)]) = false ∧
    WellFormed (cfgT 3) (.writeFrame 0 [(0, 0)]) = false := by decide

theorem test_config_default_wf : Config.default.wf = true ∧ (cfgT 1).wf = true := by decide

/-- Each constraint of R8 at its boundary. -/
theorem test_config_refuses :
    Config.wf { cfgT 3 with opPowerOff := 0 } = false ∧
    Config.wf { cfgT 3 with opWriteFrame := 2 } = false ∧
    Config.wf { cfgT 3 with retryBudget := 0 } = false ∧
    Config.wf { Config.default with sigLen := 3 } = false ∧
    Config.wf { Config.default with frameSize := 0 } = false ∧
    Config.wf { Config.default with blockCapacityFrames := 65537 } = false ∧
    Config.wf { Config.default with sigKnown := [(frameZ, [1, 2, 3])] } = false := by decide

theorem test_notAFrame_refused :
    refusal? (step (idleT 3 [.request { cmd := 7, aData := [(4096, 1)] }] [] [])) = some .notAFrame := by decide

/-! ### Decoding and encoding, from the spec's encodings -/

/-- V25, and a word with a key in each field: bits 63:56 `op`, 55:40 `frame`, 39:8 `checksum`, 7:0 `result`. -/
theorem test_decode_init : decode Config.default (.command 0x0000000000000000) = .ok (.init 0 0 0) ∧
    decode Config.default (.command 0x001234DEADBEEF80) = .ok (.init 0x1234 0xDEADBEEF 0x80) := ⟨rfl, rfl⟩

/-- V26. -/
theorem test_decode_zeroBlock :
    decode Config.default (.command 0x0100000000000000) = .ok (.zeroBlock 0 0 0) := rfl

/-- V20, V21, V22. -/
theorem test_decode_rdframe : decode Config.default (.command 0x0200050000000000) = .ok (.rdframe 5 0 0) ∧
    decode Config.default (.command 0x02FFFF0000000000) = .ok (.rdframe 0xFFFF 0 0) ∧
    decode Config.default (.command 0x0200000000000000) = .ok (.rdframe 0 0 0) := ⟨rfl, rfl, rfl⟩

/-- V23, V24. -/
theorem test_decode_wrframe :
    decode Config.default (.command 0x030007C0DE021400) = .ok (.wrframe 7 0xC0DE0214 0) ∧
    decode Config.default (.command 0x031234DEADBEEF00) = .ok (.wrframe 0x1234 0xDEADBEEF 0) := ⟨rfl, rfl⟩

/-- V27. -/
theorem test_decode_powoff : decode Config.default (.command 0x0400000000000000) = .ok (.powoff 0 0 0) := rfl

/-- R96: 5 to 255 are reserved under the defaults. -/
theorem test_decode_reserved_op :
    decode Config.default (.command 0x0500000000000000) = .error (.reservedOp 5) ∧
    decode Config.default (.command 0xFFFFFFFFFFFFFFFF) = .error (.reservedOp 0xFF) := ⟨rfl, rfl⟩

/-- The codes of R95, in binary as the table writes them. -/
theorem test_decode_requests :
    decode Config.default (.request { cmd := 0b0000, aOp := 3, aFrame := 0x1234, aCsum := 0xDEADBEEF, aRc := 0x80 }) =
      .ok (.encode 3 0x1234 0xDEADBEEF 0x80) ∧
    decode Config.default (.request { cmd := 0b0001, aReg := 0xFF }) = .ok (.decodeResult 0xFF) ∧
    decode Config.default (.request { cmd := 0b0010, aReg := 0xFF }) = .ok (.decodeChecksum 0xFF) ∧
    decode Config.default (.request { cmd := 0b0011, aReg := 0xFF }) = .ok (.decodeOp 0xFF) ∧
    decode Config.default (.request { cmd := 0b0100, aReg := 0xFF }) = .ok (.decodeFrame 0xFF) ∧
    decode Config.default (.request { cmd := 0b0101, aData := frameH }) = .ok (.checksum frameH) ∧
    decode Config.default (.request { cmd := 0b0110, aFrame := 5 }) = .ok (.readFrame 5) ∧
    decode Config.default (.request { cmd := 0b0111, aFrame := 7, aData := frameH }) = .ok (.writeFrame 7 frameH) :=
  ⟨rfl, rfl, rfl, rfl, rfl, rfl, rfl, rfl⟩

/-- The words V20, V23 and V26 as the encoder writes them. -/
theorem test_encode_words : encode Config.default (.rdframe 5 0 0) = .command 0x0200050000000000 ∧
    encode Config.default (.wrframe 7 0xC0DE0214 0) = .command 0x030007C0DE021400 ∧
    encode Config.default (.zeroBlock 0 0 0) = .command 0x0100000000000000 ∧
    encode Config.default (.readFrame 5) = .request { cmd := 6, aFrame := 5 } := by decide

/-- The words of the table, as the host numbers them. -/
theorem test_decodeTableWord : decodeTableWord 64 0x0400000000000000 = some (.powoff 0 0 0) ∧
    decodeTableWord 4 0 = some (.encode 0 0 0 0) ∧ decodeTableWord 8 7 = some (.writeFrame 0 frameZ) ∧
    decodeTableWord 8 15 = none ∧ decodeTableWord 64 0x0500000000000000 = none := by decide

/-! ### The Register Codec: V1 to V19 -/

/-- V1 to V10. -/
theorem test_V1_to_V10 :
    Xr.pack 0x03 0x1234 0xDEADBEEF 0x00 = 0x031234DEADBEEF00 ∧ Xr.pack 0x00 0x0000 0x00000000 0x00 = 0 ∧
    Xr.pack 0xAB 0x0000 0x00000000 0x00 = 0xAB00000000000000 ∧ Xr.pack 0x00 0xABCD 0x00000000 0x00 = 0x00ABCD0000000000 ∧
    Xr.pack 0xFF 0xFFFF 0xFFFFFFFF 0xFF = 0xFFFFFFFFFFFFFFFF ∧ Xr.pack 0x00 0x0000 0x00000000 0x80 = 0x80 ∧
    Xr.pack 0x00 0x0000 0x00000000 0x7F = 0x7F ∧ Xr.pack 0x00 0x0000 0x89ABCDEF 0x00 = 0x00000089ABCDEF00 ∧
    Xr.pack 0x80 0x8000 0x80000000 0x80 = 0x8080008000000080 ∧ Xr.pack 0x01 0x0001 0x00000001 0x01 = 0x0100010000000101 := by
  decide

/-- The word has these four fields, `result` as the signed number. -/
def hasFields (w : Xr) (op : BitVec 8) (frame : BitVec 16) (cs : BitVec 32) (rc : Int) : Bool :=
  decide (Xr.op w = op) && decide (Xr.frame w = frame) && decide (Xr.checksum w = cs) && decide (asI8 (Xr.result w) = rc)

/-- V11 to V14. -/
theorem test_V11_to_V14 :
    hasFields 0x0123456789ABCDEF 0x01 0x2345 0x6789ABCD (-17) ∧ hasFields 0xFEDCBA9876543210 0xFE 0xDCBA 0x98765432 16 ∧
    hasFields 0x00000000000000FF 0 0 0 (-1) ∧ hasFields 0x0000000000000100 0 0 1 0 := by decide

/-- V15 to V19. -/
theorem test_V15_to_V19 :
    hasFields 0x000000FFFFFFFF00 0 0 0xFFFFFFFF 0 ∧ hasFields 0x0000010000000000 0 1 0 0 ∧
    hasFields 0x00FFFF0000000000 0 0xFFFF 0 0 ∧ hasFields 0x0100000000000000 1 0 0 0 ∧
    hasFields 0x8000000000000000 0x80 0 0 0 := by decide

/-- The round trips of V11 (R85), both ways. -/
theorem test_unpack_V11 : Xr.unpack 0x0123456789ABCDEF = (0x01, 0x2345, 0x6789ABCD, 0xEF) ∧
    Xr.pack 0x01 0x2345 0x6789ABCD 0xEF = 0x0123456789ABCDEF := by decide

/-- `as_i8` at its corners (V6, V7, V13), and back. -/
theorem test_asI8 : asI8 0x80 = -128 ∧ asI8 0x7F = 127 ∧ asI8 0xFF = -1 ∧ asU8 (-128) = 0x80 ∧ asU8 127 = 0x7F := by
  decide

/-- V1 as a request. -/
theorem test_encode_V1 :
    lastDone (step (idleT 3 [.request { cmd := 0, aOp := 3, aFrame := 0x1234, aCsum := 0xDEADBEEF }] [] [])) =
      some { status := .ok, qReg := some 0x031234DEADBEEF00 } := by decide

/-- V5 read back: `-1`, not 255. -/
theorem test_decodeResult_V5 : lastDone (exec (.decodeResult 0xFFFFFFFFFFFFFFFF) (idleT 3 [] [] [])) =
    some { status := .ok, qRc := some (-1) } := by decide

/-- V11. -/
theorem test_decodeChecksum_V11 : lastDone (exec (.decodeChecksum 0x0123456789ABCDEF) (idleT 3 [] [] [])) =
    some { status := .ok, qCsum := some 0x6789ABCD } := by decide

/-- V12. -/
theorem test_decodeOp_V12 : lastDone (exec (.decodeOp 0xFEDCBA9876543210) (idleT 3 [] [] [])) =
    some { status := .ok, qOp := some 0xFE } := by decide

/-- V17. -/
theorem test_decodeFrame_V17 : lastDone (exec (.decodeFrame 0x00FFFF0000000000) (idleT 3 [] [] [])) =
    some { status := .ok, qFrame := some 0xFFFF } := by decide

/-- R29, R119: a codec operation after an error leaves `STATUS` as it was. -/
theorem test_codec_keeps_status :
    (next? (exec (.decodeOp 0) { idleT 3 [] [] [] with status := .deviceError })).map (·.status) =
      some .deviceError := by decide

/-! ### The Checksum Adapter: V30 to V37 -/

/-- V30, V31; V32, V33 from their signatures. -/
theorem test_V30_to_V33 : ck (cfgT 3) frameZ = 0xC0DE0000 ∧ ck (cfgT 3) frameH = 0xC0DE0214 ∧
    trunc .little [0x00, 0xF0, 0xED, 0xC0] = 0xC0EDF000 ∧ trunc .little [0x00, 0xF8, 0xE5, 0xC0] = 0xC0E5F800 := by decide

/-- V35, V36: `CK_ORDER` = big. -/
theorem test_V35_V36 : ck { cfgT 3 with ckOrder := .big } frameZ = 0x0000DEC0 ∧
    ck { cfgT 3 with ckOrder := .big } frameH = 0x1402DEC0 := by decide

/-- V37: bytes 4 to 15 of a 16-byte signature are discarded. -/
theorem test_V37 : ck { cfgT 3 with
    sigLen := 16
    sigKnown := [(frameZ, [0x00, 0x00, 0xDE, 0xC0, 0xAA, 0xBB, 0xCC, 0xDD, 0x01, 0x02, 0x03, 0x04, 0x05, 0x06, 0x07, 0x08])] }
    frameZ = 0xC0DE0000 := by decide

/-- V31, its first step: one signature call, no bus transaction. -/
theorem test_checksum_accepted :
    (next? (step (idleT 3 [.request { cmd := 5, aData := frameH }] [] []))).map (fun t => (t.phase, t.calls, t.fbuf)) =
      some (.ckSig, [.sig frameH], frameZ) := by decide

/-- V31 and V34, the second step. -/
theorem test_checksum_answered :
    lastDone (step (ckSigT frameH [.ok])) = some { status := .ok, qCsum := some 0xC0DE0214 } ∧
    lastDone (step (ckSigT frameZ [.fail])) = some { status := .checksumUnavailable } := by decide

/-! ### READ_FRAME: V40 to V53, one step each -/

/-- V40 and V52, the first step: the command word of attempt 1. -/
theorem test_readFrame_sends :
    lastCall (step (idleT 1000 [.request { cmd := 6, aFrame := 5 }] [] [])) =
      some (.bus 0x0200050000000000 frameZ .rd) ∧
    lastCall (step (idleT 1000 [.request { cmd := 6, aFrame := 0xFFFF }] [] [])) =
      some (.bus 0x02FFFF0000000000 frameZ .rd) := by decide

/-- P2, step 11: the bus's answer to the outstanding `RDFRAME` goes to `XRSP` and `FBUF`. -/
theorem test_rdframe_answered :
    (next? (exec (.rdframe 5 0 0) (rdBusT 3 1 [⟨0x020005C0DE021400, frameH⟩]))).map
      (fun t => (t.phase, t.xrsp, t.fbuf, t.calls)) =
      some (.rdSig, 0x020005C0DE021400, frameH, [.sig frameH]) := by decide

/-- V40 and V50 (the response's `op` and `frame` are ignored). -/
theorem test_V40_V50 :
    lastDone (step (rdSigT 1000 1 0x020005C0DE000000 frameZ [.ok])) = some { status := .ok, qData := some frameZ } ∧
    lastDone (step (rdSigT 1000 1 0xEEBEEFC0DE000000 frameZ [.ok])) = some { status := .ok, qData := some frameZ } := by
  decide

/-- V41 and V47: a mismatch is retried, with the same word, whatever the `result`. -/
theorem test_V41_V47 :
    (next? (step (rdSigT 1000 1 0x020005C0DE000100 frameZ [.ok]))).map (fun t => (t.attempt, t.phase, t.xcmd)) =
      some (2, .rdBus, 0x0200050000000000) ∧
    (next? (step (rdSigT 1000 1 0x020005C0DE0001FF frameZ [.ok]))).map (fun t => (t.attempt, t.phase, t.xcmd)) =
      some (2, .rdBus, 0x0200050000000000) := by decide

/-- V42, V43, V44: the last attempt of the budget decides. -/
theorem test_V42_V43_V44 :
    lastDone (step (rdSigT 3 3 0x020005C0DE000000 frameZ [.ok])) = some { status := .ok, qData := some frameZ } ∧
    lastDone (step (rdSigT 3 3 0x0200050000000000 frameZ [.ok])) = some { status := .checksumExhausted } ∧
    lastDone (step (rdSigT 1 1 0x0200050000000100 frameZ [.ok])) = some { status := .checksumExhausted } := by decide

/-- V45, V46: a failing `result` in a matching response. -/
theorem test_V45_V46 :
    lastDone (step (rdSigT 1000 1 0x020005C0DE000001 frameZ [.ok])) = some { status := .deviceError } ∧
    lastDone (step (rdSigT 1000 1 0x020005C0DE000080 frameZ [.ok])) = some { status := .deviceError } := by decide

/-- V48 and V51. -/
theorem test_V48_V51 :
    lastDone (step (rdSigT 1000 1 0x020005C0DE000000 frameZ [.fail])) = some { status := .checksumUnavailable } ∧
    lastDone (step (rdSigT 1000 1 0x020005C0DE021400 frameHRev [.ok])) =
      some { status := .ok, qData := some frameHRev } := by decide

/-- V73: the bus does not answer. -/
theorem test_V73 : (next? (step (rdBusT 3 1 []))).map (fun t => (t.phase, t.attempt, t.completions)) =
    some (.rdBus, 1, []) := by decide

/-! ### WRITE_FRAME: V60 to V68, one step each -/

/-- P2, step 1. -/
theorem test_writeFrame_accepted :
    (next? (step (idleT 1000 [.request { cmd := 7, aFrame := 7, aData := frameH }] [] []))).map
      (fun t => (t.phase, t.fidx, t.fbuf, t.calls)) = some (.wrSig, 7, frameH, [.sig frameH]) := by decide

/-- P2, steps 2 and 3; V65. -/
theorem test_writeFrame_checked :
    lastCall (step (wrSigT 1000 [.ok])) = some (.bus 0x030007C0DE021400 frameH .wr) ∧
    lastDone (step (wrSigT 1000 [.fail])) = some { status := .checksumUnavailable } := by decide

/-- V60, V63, V64: the echo equals what was sent. -/
theorem test_wrframe_V60_V63_V64 :
    lastDone (exec (.wrframe 7 0xC0DE0214 0) (wrBusT 1000 1 [⟨0x030007C0DE021400, frameZ⟩])) = some { status := .ok } ∧
    lastDone (step (wrBusT 1000 1 [⟨0x030007C0DE0214FF, frameZ⟩])) = some { status := .deviceError } ∧
    lastDone (step (wrBusT 1000 1 [⟨0x030007C0DE021401, frameZ⟩])) = some { status := .deviceError } ∧
    lastDone (step { wrBusT 1000 1 [⟨0x030007C0DE021401, frameZ⟩] with
      cfg := { cfgT 1000 with okResults := [0, 1] } }) = some { status := .ok } := by decide

/-- V61, V62, V68: the echo differs; the buffer of a write's answer is not taken. -/
theorem test_V61_V62_V68 :
    (next? (step (wrBusT 1000 2 [⟨0x030007C0DE0215FF, frameZ⟩]))).map (fun t => (t.attempt, t.fbuf, t.calls)) =
      some (3, frameH, [.bus 0x030007C0DE021400 frameH .wr]) ∧
    lastDone (step (wrBusT 3 3 [⟨0x0300070000000000, frameZ⟩])) = some { status := .checksumExhausted } ∧
    lastDone (step (wrBusT 1 1 [⟨0x0300070000000000, frameZ⟩])) = some { status := .checksumExhausted } := by decide

/-! ### Other masters' command words, refusals, reset -/

/-- R192 with V25: the answer goes to the other master, and `XRSP` stays. -/
theorem test_init_other_master :
    (next? (step (idleT 3 [.command 0x0000000000000000] [⟨0xFF, frameH⟩] []))).map (fun t => (t.xrsp, t.extReply, t.calls)) =
      some (0, some ⟨0xFF, frameH⟩, [.other 0x0000000000000000]) := by decide

/-- R193 with V26. -/
theorem test_zeroBlock_other_master :
    (next? (step (idleT 3 [.command 0x0100000000000000] [⟨0xFF, frameH⟩] []))).map (fun t => (t.xrsp, t.extReply, t.calls)) =
      some (0, some ⟨0xFF, frameH⟩, [.other 0x0100000000000000]) := by decide

/-- R194 with V27. -/
theorem test_powoff_other_master :
    (next? (step (idleT 3 [.command 0x0400000000000000] [⟨0xFF, frameH⟩] []))).map (fun t => (t.xrsp, t.extReply, t.calls)) =
      some (0, some ⟨0xFF, frameH⟩, [.other 0x0400000000000000]) := by decide

/-- R96: a reserved `op` is answered like any other. -/
theorem test_reserved_other_master :
    (next? (step (idleT 3 [.command 0x0500000000000000] [⟨0xFF, frameH⟩] []))).map (fun t => (t.xrsp, t.extReply, t.calls)) =
      some (0, some ⟨0xFF, frameH⟩, [.other 0x0500000000000000]) := by decide

/-- V70. -/
theorem test_V70 : refusal? (step (idleT 3 [.request { cmd := 9 }] [] [])) = some (.reservedCmd 9) := by decide

/-- V71. -/
theorem test_V71 : refusal? (exec (.readFrame 6) (rdBusT 3 1 [])) = some .busy ∧
    refusal? (exec (.decodeOp 0) (rdBusT 3 1 [])) = some .busy := by decide

/-- R240: another master's word while the unit holds the bus. -/
theorem test_bus_exclusive : refusal? (exec (.init 0 0 0) (rdBusT 3 1 [])) = some .busNotExclusive ∧
    refusal? (exec (.rdframe 6 0 0) (rdBusT 3 1 [])) = some .busNotExclusive := by decide

/-- R38: what reset fixes. -/
theorem test_reset_values : State.reset.phase = .idle ∧ State.reset.attempt = 0 ∧ State.reset.status = .ok := by decide

/-- R231: reset drops a read in progress and the answer to its outstanding transaction. -/
theorem test_reset_in_flight :
    (next? (step { rdBusT 3 2 [⟨1, frameZ⟩, ⟨2, frameZ⟩] with resetLine := true })).map
      (fun t => (t.phase, t.attempt, t.status, t.busAnswers, t.completions)) =
      some (.idle, 0, .ok, [⟨2, frameZ⟩], []) := by decide

/-- The codes of `STATUS` (R200). -/
theorem test_statusCode : statusCode .ok = 0b00 ∧ statusCode .checksumUnavailable = 0b01 ∧
    statusCode .checksumExhausted = 0b10 ∧ statusCode .deviceError = 0b11 := by decide

/-- `BUSY` is derived from `PHASE` (R28). -/
theorem test_busy : busy (idleT 3 [] [] []) = false ∧ busy (rdBusT 3 1 []) = true := by decide

/-! ### Witnesses: a concrete state and operands that meet every hypothesis of each statement -/

theorem test_inv_idle : Inv (idleT 3 [] [] []) :=
  ⟨by decide, by decide, by decide, by decide, by decide, nofun, by decide, trivial⟩

/-- The invariant at the first and at the last attempt of a read. -/
theorem test_inv_rdBus : Inv (rdBusT 3 1 [⟨0x0200050000000000, frameH⟩]) ∧ Inv (rdBusT 3 3 []) :=
  ⟨⟨by decide, by decide, by decide, by decide, by decide, nofun, by decide, show _ ∧ _ by decide⟩,
    ⟨by decide, by decide, by decide, by decide, by decide, nofun, by decide, show _ ∧ _ by decide⟩⟩

theorem test_inv_rdSig : Inv (rdSigT 3 1 0 frameZ [.ok]) ∧ Inv (rdSigT 3 3 0 frameZ [.ok]) :=
  ⟨⟨by decide, by decide, by decide, by decide, by decide, nofun, by decide, show _ ∧ _ by decide⟩,
    ⟨by decide, by decide, by decide, by decide, by decide, nofun, by decide, show _ ∧ _ by decide⟩⟩

theorem test_inv_wrSig : Inv (wrSigT 3 [.ok]) :=
  ⟨by decide, by decide, by decide, by decide, by decide, nofun, by decide, show _ = 0 by decide⟩

theorem test_inv_wrBus : Inv (wrBusT 3 1 [⟨0x0300070000000000, frameZ⟩]) ∧ Inv (wrBusT 3 3 [⟨0x030007C0DE021400, frameZ⟩]) :=
  ⟨⟨by decide, by decide, by decide, by decide, by decide, nofun, by decide, show _ ∧ _ by decide⟩,
    ⟨by decide, by decide, by decide, by decide, by decide, nofun, by decide, show _ ∧ _ by decide⟩⟩

theorem test_witness_DecodeAfterEncodeIsIdentity :
    (cfgT 1).wf = true ∧ WellFormed (cfgT 1) (.writeFrame 0xFFFF frameH) = true ∧
    WellFormed (cfgT 1) (.powoff 0xFFFF 0xFFFFFFFF 0xFF) = true := by decide

theorem test_witness_EncodeAfterDecodeCommandIsIdentity :
    decode (cfgT 1) (.command 0x04FFFFFFFFFFFFFF) = .ok (.powoff 0xFFFF 0xFFFFFFFF 0xFF) := rfl

theorem test_witness_OpByteAloneSelectsCommand :
    Xr.op 0x0200000000000000 = Xr.op 0x02FFFFFFFFFFFFFF := by decide

/-- The hypotheses of UnlistedRequestOperandsAreIgnored, all together. -/
abbrev SameListed (r q : Request) : Prop :=
  r.cmd = q.cmd ∧ (r.cmd = 0 → r.aOp = q.aOp ∧ r.aFrame = q.aFrame ∧ r.aCsum = q.aCsum ∧ r.aRc = q.aRc) ∧
  (r.cmd = 1 ∨ r.cmd = 2 ∨ r.cmd = 3 ∨ r.cmd = 4 → r.aReg = q.aReg) ∧ (r.cmd = 5 → r.aData = q.aData) ∧
  (r.cmd = 6 → r.aFrame = q.aFrame) ∧ (r.cmd = 7 → r.aFrame = q.aFrame ∧ r.aData = q.aData)

/-- Two requests that differ in operands their code does not list, for each clause. -/
theorem test_witness_UnlistedRequestOperandsAreIgnored :
    SameListed { cmd := 0, aOp := 1, aReg := 1, aData := frameH } { cmd := 0, aOp := 1 } ∧
    SameListed { cmd := 1, aReg := 9, aOp := 1 } { cmd := 1, aReg := 9, aFrame := 1 } ∧
    SameListed { cmd := 4, aReg := 9, aOp := 1 } { cmd := 4, aReg := 9, aData := frameH } ∧
    SameListed { cmd := 5, aData := frameH, aReg := 1 } { cmd := 5, aData := frameH } ∧
    SameListed { cmd := 6, aFrame := 5, aReg := 1 } { cmd := 6, aFrame := 5, aData := frameH } ∧
    SameListed { cmd := 7, aFrame := 7, aData := frameH, aOp := 1 } { cmd := 7, aFrame := 7, aData := frameH } ∧
    SameListed { cmd := 15, aOp := 1 } { cmd := 15 } :=
  ⟨by decide, by decide, by decide, by decide, by decide, by decide, by decide⟩

/-- The least and the greatest reserved code. -/
theorem test_witness_ReservedCmdIsRefused :
    Ready (idleT 1 [.request { cmd := 8 }] [] []) ∧ Ready (idleT 1 [.request { cmd := 15 }] [] []) ∧
    8 ≤ (8 : BitVec 4).toNat ∧ 8 ≤ (15 : BitVec 4).toNat := by decide

theorem test_witness_StepRunsDecodedInstruction :
    Ready (idleT 1 [.request { cmd := 7, aFrame := 0xFFFF, aData := frameH }] [] []) ∧
    decode (cfgT 1) (.request { cmd := 7, aFrame := 0xFFFF, aData := frameH }) = .ok (.writeFrame 0xFFFF frameH) :=
  ⟨by decide, rfl⟩

theorem test_witness_OutstandingCommandWordIsExecuted :
    (Inv (rdBusT 3 3 []) ∧ Running (rdBusT 3 3 []) ∧ (rdBusT 3 3 []).phase = .rdBus) ∧
    Inv (wrBusT 3 3 [⟨0x030007C0DE021400, frameZ⟩]) ∧ Running (wrBusT 3 3 []) ∧ (wrBusT 3 3 []).phase = .wrBus :=
  ⟨⟨test_inv_rdBus.2, by decide, rfl⟩, test_inv_wrBus.2, by decide, rfl⟩

/-- Each way to break R8, at its boundary. -/
theorem test_witness_BrokenConfigurationIsRefused :
    ¬ [(0 : BitVec 8), 1, 2, 3, 3].Nodup ∧ 0 < 1 ∧ 3 < 4 ∧ 2 ^ 16 < 65537 ∧
    refusal? (step { idleT 3 [] [] [] with cfg := { cfgT 3 with opPowerOff := 3 } }) = some .badConfiguration ∧
    refusal? (step (idleT 0 [] [] [])) = some .badConfiguration := by decide

theorem test_witness_RequestWhileBusyHasNoStep :
    (Instr.decodeOp 0).isRequest = true ∧ (rdBusT 3 1 []).phase ≠ .idle ∧ Running (rdBusT 3 1 []) ∧
    ∃ t, step (rdBusT 3 1 []) = .next t := ⟨rfl, by decide, by decide, _, rfl⟩

theorem test_witness_IdleUnitWaits : Ready (idleT 1 [] [] []) ∧ (idleT 1 [] [] []).inbox = [] := by decide

/-- Each phase that waits. -/
theorem test_witness_UnansweredCallWaits :
    (Running (rdBusT 3 3 []) ∧ (rdBusT 3 3 []).phase = .rdBus ∧ (rdBusT 3 3 []).busAnswers = []) ∧
    (Running (wrBusT 3 3 []) ∧ (wrBusT 3 3 []).phase = .wrBus ∧ (wrBusT 3 3 []).busAnswers = []) ∧
    (Running (ckSigT frameZ []) ∧ (ckSigT frameZ []).phase = .ckSig ∧ (ckSigT frameZ []).sigAnswers = []) ∧
    (Running (rdSigT 3 3 0 frameZ []) ∧ (rdSigT 3 3 0 frameZ []).phase = .rdSig) ∧
    (Running (wrSigT 3 []) ∧ (wrSigT 3 []).phase = .wrSig) := by decide

theorem test_witness_StepsKeepConfiguration : ∃ t, step (idleT 1 [] [] []) = .next t := ⟨_, rfl⟩

theorem test_witness_EncodeCompletes : (idleT 1 [] [] []).phase = .idle := rfl

theorem test_witness_DecodeResultCompletes : (idleT 1 [] [] []).phase = .idle := rfl

theorem test_witness_DecodeChecksumCompletes : (idleT 1 [] [] []).phase = .idle := rfl

theorem test_witness_DecodeOpCompletes : (idleT 1 [] [] []).phase = .idle := rfl

theorem test_witness_DecodeFrameCompletes : (idleT 1 [] [] []).phase = .idle := rfl

theorem test_witness_DecodeAfterEncodeDeliversOperands : (idleT 1 [] [] []).phase = .idle := rfl

theorem test_witness_PseudoOperationsExpand :
    Ready (idleT 1 ((pseudoDecode 0xFFFFFFFFFFFFFFFF).map (encode (cfgT 1))) [] []) := by decide

/-- Both byte orders, with a signature of exactly four bytes and one of sixteen. -/
theorem test_witness_ChecksumTruncatesSignature :
    (signature (cfgT 1) frameH = 0x14 :: 0x02 :: 0xDE :: 0xC0 :: [] ∧ (cfgT 1).ckOrder = .little) ∧
    signature { cfgT 1 with ckOrder := .big, sigLen := 5, sigKnown := [(frameZ, [1, 2, 3, 4, 5])] } frameZ =
      1 :: 2 :: 3 :: 4 :: [5] := by decide

theorem test_witness_EqualBytesHaveEqualChecksums :
    Frame.wf 4 [(3, 1)] = true ∧ ∀ i, i < 4 → Frame.byteAt [(3, 1)] i = Frame.byteAt [(3, 1)] i :=
  ⟨by decide, fun _ _ => rfl⟩

theorem test_witness_DistinctFramesShareChecksum : 4 < { cfgT 1 with frameSize := 5 }.frameSize := by decide

theorem test_witness_ChecksumIsAccepted : (idleT 1 [] [] []).phase = .idle := rfl

/-- Both answers of the signature primitive. -/
theorem test_witness_ChecksumCompletes :
    Ready (idleT 1 [encode (cfgT 1) (.checksum frameH)] [] [.fail]) ∧
    Ready (idleT 1 [encode (cfgT 1) (.checksum frameH)] [] [.ok]) ∧ Frame.wf (cfgT 1).frameSize frameH = true ∧
    signature (cfgT 1) frameH = 0x14 :: 0x02 :: 0xDE :: 0xC0 :: [] := by decide

theorem test_witness_ReadFrameIsAccepted :
    (idleT 1 [] [] []).phase = .idle ∧ (idleT 1 [] [] []).extCall = none ∧ 1 ≤ (cfgT 1).retryBudget := by decide

theorem test_witness_WriteFrameIsAccepted : (idleT 1 [] [] []).phase = .idle ∧ (idleT 1 [] [] []).extCall = none := by
  decide

theorem test_witness_ReadResponseIsTaken :
    Running (rdBusT 3 3 [⟨0xFFFFFFFFFFFFFFFF, frameH⟩]) ∧
    (rdBusT 3 3 [⟨0xFFFFFFFFFFFFFFFF, frameH⟩]).xcmd = Xr.pack (cfgT 3).opReadFrame 5 0 0 := by decide

/-- A state for each of the five clauses. -/
theorem test_witness_ReadAttemptIsJudged :
    Running (rdSigT 3 3 0x0200050000000000 frameZ [.fail]) ∧
    (ck (cfgT 3) frameZ ≠ Xr.checksum 0x0200050000000000 ∧ (rdSigT 3 3 0x0200050000000000 frameZ [.ok]).attempt = 3) ∧
    (ck (cfgT 3) frameZ ≠ Xr.checksum 0x0200050000000000 ∧ (rdSigT 3 2 0x0200050000000000 frameZ [.ok]).attempt ≠ 3) ∧
    (ck (cfgT 3) frameZ = Xr.checksum 0x020005C0DE000080 ∧
      resultFail (cfgT 3) (asI8 (Xr.result 0x020005C0DE000080)) = true) ∧
    (ck (cfgT 3) frameZ = Xr.checksum 0x020005C0DE000000 ∧
      resultFail (cfgT 3) (asI8 (Xr.result 0x020005C0DE000000)) = false) := by decide

theorem test_witness_WriteChecksumIsTaken :
    Running (wrSigT 1 [.fail]) ∧ Running (wrSigT 1 [.ok]) ∧ (wrSigT 1 [.ok]).attempt ≠ (cfgT 1).retryBudget := by decide

/-- A state for each clause. -/
theorem test_witness_WriteAttemptIsJudged :
    Running (wrBusT 3 3 [⟨0x0300070000000000, frameZ⟩]) ∧
    (wrBusT 3 3 []).xcmd = Xr.pack (cfgT 3).opWriteFrame 7 0xC0DE0214 0 ∧
    (Xr.checksum 0x0300070000000000 ≠ (wrBusT 3 3 []).csum ∧ (wrBusT 3 3 []).attempt = 3) ∧
    (Xr.checksum 0x0300070000000000 ≠ (wrBusT 3 2 []).csum ∧ (wrBusT 3 2 []).attempt ≠ 3) ∧
    (Xr.checksum 0x030007C0DE0214FF = (wrBusT 3 3 []).csum ∧
      resultFail (cfgT 3) (asI8 (Xr.result 0x030007C0DE0214FF)) = true) ∧
    (Xr.checksum 0x030007C0DE021400 = (wrBusT 3 3 []).csum ∧
      resultFail (cfgT 3) (asI8 (Xr.result 0x030007C0DE021400)) = false) := by decide

/-- V42 (two mismatches of a budget of three), V48 (a failing signature), V44 (the budget mismatches). -/
theorem test_witness_ReadFrameAsFunctionOfAnswers :
    Ready (idleT 3 [encode (cfgT 3) (.readFrame 5)] [⟨0, frameZ⟩, ⟨0, frameZ⟩, ⟨0x020005C0DE000000, frameZ⟩] [.ok, .ok, .ok]) ∧
    (∀ b ∈ [(⟨0, frameZ⟩ : BusAnswer), ⟨0, frameZ⟩], ck (cfgT 3) b.buffer ≠ Xr.checksum b.response) ∧ 2 < 3 ∧
    ck (cfgT 3) frameZ = Xr.checksum 0x020005C0DE000000 ∧
    Ready (idleT 3 [encode (cfgT 3) (.readFrame 5)] [⟨0, frameZ⟩] [.fail]) ∧
    Ready (idleT 1 [encode (cfgT 1) (.readFrame 5)] [⟨0, frameZ⟩] [.ok]) := by decide

/-- V65, V61 and V68. -/
theorem test_witness_WriteFrameAsFunctionOfAnswers :
    Ready (idleT 3 [encode (cfgT 3) (.writeFrame 7 frameH)] [] [.fail]) ∧
    Ready (idleT 3 [encode (cfgT 3) (.writeFrame 7 frameH)]
      [⟨0x0300070000000000, frameZ⟩, ⟨0x030007C0DE0215FF, frameZ⟩, ⟨0x030007C0DE021400, frameZ⟩] [.ok]) ∧
    (∀ b ∈ [(⟨0x0300070000000000, frameZ⟩ : BusAnswer), ⟨0x030007C0DE0215FF, frameZ⟩],
      Xr.checksum b.response ≠ ck (cfgT 3) frameH) ∧ 2 < 3 ∧
    Xr.checksum 0x030007C0DE021400 = ck (cfgT 3) frameH ∧
    Ready (idleT 1 [encode (cfgT 1) (.writeFrame 7 frameH)] [⟨0x0300070000000000, frameZ⟩] [.ok]) ∧
    Frame.wf (cfgT 3).frameSize frameH = true := by decide

theorem test_witness_AnsweredOperationsTerminate :
    Ready (idleT 2 [encode (cfgT 2) (.writeFrame 7 frameH)] [⟨0, frameZ⟩, ⟨0, frameZ⟩] [.ok, .ok]) ∧
    (Instr.writeFrame 7 frameH).isRequest = true ∧ WellFormed (cfgT 2) (.writeFrame 7 frameH) = true ∧
    (cfgT 2).retryBudget ≤ 2 := by decide

theorem test_ck_frameH : ck (cfgT 1) frameH = 0xC0DE0214 := by decide

/-- A store that held `Z` everywhere; one mismatching answer, then a faithful one, to the write and to the read, with
answers left over. -/
theorem test_witness_FaithfulBusRoundTrip :
    (Ready (idleT 2 [encode (cfgT 2) (.writeFrame 7 frameH), encode (cfgT 2) (.readFrame 7)]
        ([⟨0, frameZ⟩] ++ ⟨0x030007C0DE021400, frameZ⟩ :: ([⟨0, frameZ⟩] ++ ⟨0x020007C0DE021400, frameH⟩ :: [⟨1, frameZ⟩]))
        (List.replicate (1 + (1 + 1)) .ok ++ [.fail])) ∧
      Frame.wf (cfgT 2).frameSize frameH = true ∧ [(⟨0, frameZ⟩ : BusAnswer)].length < (cfgT 2).retryBudget) ∧
    (∀ b ∈ [(⟨0, frameZ⟩ : BusAnswer)], Xr.checksum b.response ≠ ck (cfgT 2) frameH) ∧
    (∀ b ∈ [(⟨0, frameZ⟩ : BusAnswer)], ck (cfgT 2) b.buffer ≠ Xr.checksum b.response) ∧
    FaithfulAnswer (cfgT 2) (fun _ => frameZ) (Store.set (fun _ => frameZ) 7 frameH)
      (.bus (Xr.pack (cfgT 2).opWriteFrame 7 (ck (cfgT 2) frameH) 0) frameH .wr) ⟨0x030007C0DE021400, frameZ⟩ ∧
    FaithfulAnswer (cfgT 2) (Store.set (fun _ => frameZ) 7 frameH) (Store.set (fun _ => frameZ) 7 frameH)
      (.bus (Xr.pack (cfgT 2).opReadFrame 7 0 0) frameZ .rd) ⟨0x020007C0DE021400, frameH⟩ :=
  ⟨by decide, by decide, by decide, fun _ => ⟨rfl, by decide, by decide⟩, fun _ => ⟨rfl, rfl, by decide, by decide⟩⟩

theorem test_witness_StepKeepsInvariant :
    Inv (rdBusT 3 1 [⟨0x0200050000000000, frameH⟩]) ∧ ∃ t, step (rdBusT 3 1 [⟨0x0200050000000000, frameH⟩]) = .next t :=
  ⟨test_inv_rdBus.1, _, rfl⟩

/-- Two idle units whose six data registers all differ. -/
theorem test_witness_OldRegistersDoNotMatter :
    (idleT 1 [.request { cmd := 6 }] [] []).phase = .idle ∧
    SameOutside (idleT 1 [.request { cmd := 6 }] [] [])
      { idleT 1 [.request { cmd := 6 }] [] [] with
        attempt := 1, fidx := 5, fbuf := frameH, csum := 1, xcmd := 1, xrsp := 1, status := .deviceError } ∧
    ∃ t, run 1 (idleT 1 [.request { cmd := 6 }] [] []) = .next t :=
  ⟨rfl, ⟨rfl, rfl, rfl, rfl, rfl, rfl, rfl, rfl, rfl⟩, _, rfl⟩

theorem test_witness_ResponseOpAndFrameAreIgnored :
    (Running (rdSigT 3 3 0x020005C0DE000000 frameZ [.ok]) ∧
      Xr.checksum 0xEEBEEFC0DE000000 = Xr.checksum 0x020005C0DE000000 ∧
      Xr.result 0xEEBEEFC0DE000000 = Xr.result 0x020005C0DE000000) ∧
    (∃ t, step (rdSigT 3 3 0x020005C0DE000000 frameZ [.ok]) = .next t) ∧
    (Running (wrBusT 3 3 [⟨0x030007C0DE021400, frameZ⟩]) ∧
      Xr.checksum 0x030007C0DE021400 = Xr.checksum 0xEEBEEFC0DE021400 ∧
      Xr.result 0x030007C0DE021400 = Xr.result 0xEEBEEFC0DE021400) ∧
    ∃ t, step (wrBusT 3 3 [⟨0x030007C0DE021400, frameZ⟩]) = .next t :=
  ⟨by decide, ⟨_, rfl⟩, by decide, _, rfl⟩

theorem test_witness_AtMostOneCompletionPerStep : ∃ t, step (wrSigT 1 [.fail]) = .next t := ⟨_, rfl⟩

theorem test_witness_RaisedErrorsDeliverStatusOnly :
    ∃ t k, step (wrSigT 1 [.fail]) = .next t ∧ t.completions = (wrSigT 1 [.fail]).completions ++ [k] ∧ k.status ≠ .ok :=
  ⟨_, { status := .checksumUnavailable }, rfl, rfl, by decide⟩

theorem test_witness_UnavailableExactlyOnSignatureFailure :
    (Inv (wrSigT 3 [.fail]) ∧ Running (wrSigT 3 [.fail])) ∧
    ∃ t k, step (wrSigT 3 [.fail]) = .next t ∧ t.completions = [] ++ [k] ∧ k.status = .checksumUnavailable :=
  ⟨⟨⟨by decide, by decide, by decide, by decide, by decide, nofun, by decide, show _ = 0 by decide⟩, by decide⟩, _,
    { status := .checksumUnavailable }, rfl, rfl, rfl⟩

theorem test_witness_ExhaustedExactlyOnLastMismatch :
    (Inv (rdSigT 3 3 0 frameZ [.ok]) ∧ Running (rdSigT 3 3 0 frameZ [.ok])) ∧
    ∃ t, step (rdSigT 3 3 0 frameZ [.ok]) = .next t := ⟨⟨test_inv_rdSig.2, by decide⟩, _, rfl⟩

theorem test_witness_DeviceErrorExactlyOnCorroboratedFailure :
    Running (wrBusT 3 3 [⟨0x030007C0DE0214FF, frameZ⟩]) ∧
    ∃ t k, step (wrBusT 3 3 [⟨0x030007C0DE0214FF, frameZ⟩]) = .next t ∧ t.completions = [] ++ [k] ∧
      k.status = .deviceError := ⟨by decide, _, { status := .deviceError }, rfl, rfl, rfl⟩

theorem test_witness_OkReadIsCorroborated :
    Running (rdSigT 3 3 0x020005C0DE000000 frameZ [.ok]) ∧
    ∃ t k, step (rdSigT 3 3 0x020005C0DE000000 frameZ [.ok]) = .next t ∧ t.completions = [] ++ [k] ∧
      k.qData = some frameZ :=
  ⟨by decide, _, { status := .ok, qData := some frameZ }, rfl, rfl, rfl⟩

theorem test_witness_OkWriteIsCorroborated :
    (Inv (wrBusT 3 3 [⟨0x030007C0DE021400, frameZ⟩]) ∧ Running (wrBusT 3 3 [⟨0x030007C0DE021400, frameZ⟩])) ∧
    ∃ t k, step (wrBusT 3 3 [⟨0x030007C0DE021400, frameZ⟩]) = .next t ∧ t.completions = [] ++ [k] ∧ k.status = .ok :=
  ⟨⟨test_inv_wrBus.2, by decide⟩, _, { status := .ok }, rfl, rfl, rfl⟩

theorem test_witness_AttemptCountsBusTransactions :
    Running (wrSigT 1 [.ok]) ∧ (wrSigT 1 [.ok]).phase ≠ .idle ∧ ∃ t, step (wrSigT 1 [.ok]) = .next t :=
  ⟨by decide, by decide, _, rfl⟩

theorem test_witness_UnitSendsOnlyFrameTransfers :
    ∃ t, step (wrSigT 1 [.ok]) = .next t ∧ Call.bus 0x030007C0DE021400 frameH .wr ∈ t.calls :=
  ⟨_, rfl, by decide⟩

theorem test_witness_ReadAttemptsSendSameWord :
    (Inv (rdSigT 3 1 0 frameZ [.ok]) ∧ Running (rdSigT 3 1 0 frameZ [.ok])) ∧ (rdSigT 3 1 0 frameZ [.ok]).phase = .rdSig ∧
    ∃ t, step (rdSigT 3 1 0 frameZ [.ok]) = .next t := ⟨⟨test_inv_rdSig.1, by decide⟩, rfl, _, rfl⟩

theorem test_witness_WriteAttemptsSendSameWordAndBuffer :
    (Inv (wrBusT 3 1 [⟨0x0300070000000000, frameZ⟩]) ∧ Running (wrBusT 3 1 [⟨0x0300070000000000, frameZ⟩])) ∧
    (wrBusT 3 1 [⟨0x0300070000000000, frameZ⟩]).phase = .wrBus ∧
    ∃ t, step (wrBusT 3 1 [⟨0x0300070000000000, frameZ⟩]) = .next t :=
  ⟨⟨test_inv_wrBus.1, by decide⟩, rfl, _, rfl⟩

theorem test_witness_OtherMastersCallLeavesUnitAlone :
    (idleT 1 [] [⟨0xFF, frameH⟩] []).phase = .idle ∧ (idleT 1 [] [⟨0xFF, frameH⟩] []).extCall = none := by decide

/-- A call that starts to wait, one that goes on waiting, one that is answered. -/
theorem test_witness_OtherMastersCallWaits :
    Ready (idleT 1 [.command 0xFFFFFFFFFFFFFFFF] [] []) ∧
    (Running { idleT 1 [] [] [] with extCall := some 0 } ∧ { idleT 1 [] [] [] with extCall := some 0 }.phase = .idle) ∧
    Running { idleT 1 [] [⟨0xFF, frameH⟩] [] with extCall := some 0 } := by decide

theorem test_witness_ReservedOpIsAnsweredByBus :
    Ready (idleT 1 [.command 0x0500000000000000] [⟨0xFF, frameH⟩] []) ∧
    Xr.op 0x0500000000000000 ∉ (cfgT 1).opCodes ∧ Xr.op 0xFFFFFFFFFFFFFFFF ∉ (cfgT 1).opCodes := by decide

/-- Words for another frame, or in another phase. -/
theorem test_witness_BusIsExclusiveWhileBusy :
    (rdBusT 3 1 []).phase ≠ .idle ∧
    ¬ ((rdBusT 3 1 []).phase = .rdBus ∧ (rdBusT 3 1 []).xcmd = Xr.pack (cfgT 3).opReadFrame 6 0 0) ∧
    ¬ ((rdBusT 3 1 []).phase = .wrBus ∧ (rdBusT 3 1 []).xcmd = Xr.pack (cfgT 3).opWriteFrame 5 0 0) := by decide

/-- Reset with a call outstanding at the bus, and at the signature primitive. -/
theorem test_witness_ResetDropsOperation :
    ({ rdBusT 3 3 [⟨1, frameZ⟩] with resetLine := true }.cfg.wf = true ∧
      { rdBusT 3 3 [⟨1, frameZ⟩] with resetLine := true }.phase = .rdBus) ∧
    ({ wrSigT 3 [.ok] with resetLine := true }.cfg.wf = true ∧
      { wrSigT 3 [.ok] with resetLine := true }.phase = .wrSig) := by decide

end Sys2Proof.Tests
end

section
/-! The scope family (00_scope.md): a configuration that breaks R8 is refused, a step delivers at most one completion, and
every step keeps the invariant. What a step does is read off `Effect`, one field of `Inv` at a time. -/

namespace Sys2Proof

/-- The model's own test of the operation codes is the library's notion of a list without repetition (R8). -/
theorem Config.distinct_iff_nodup (l : List (BitVec 8)) : Config.distinct l = true ↔ l.Nodup := by
  induction l with
  | nil => simp [Config.distinct]
  | cons x xs ih =>
    have hx : (∀ y ∈ xs, y ≠ x) ↔ x ∉ xs := ⟨fun h hm => h x hm rfl, fun h y hy e => h (e ▸ hy)⟩
    simp only [Config.distinct, Bool.and_eq_true, List.all_eq_true, decide_eq_true_eq, List.nodup_cons, ih, hx]

/-- Parameters that pass the model's test meet the five constraints of R8. -/
theorem Config.wf_constraints {c : Config} (h : c.wf = true) :
    c.opCodes.Nodup ∧ 1 ≤ c.retryBudget ∧ 4 ≤ c.sigLen ∧ 1 ≤ c.frameSize ∧ c.blockCapacityFrames ≤ 2 ^ 16 := by
  simp only [Config.wf, Bool.and_eq_true, decide_eq_true_eq, Config.distinct_iff_nodup] at h
  obtain ⟨⟨⟨⟨⟨hops, hretry⟩, hsig⟩, hframe⟩, hblock⟩, -⟩ := h
  exact ⟨hops, hretry, hsig, hframe, hblock⟩

namespace Machine

variable {s t : State}

/-- Parameters that fail the test are refused before anything else is looked at, reset included (R8). -/
theorem step_of_not_wf (h : s.cfg.wf = false) : step s = .refused .badConfiguration := by
  simp [step, advance, h]

/-! ### What a step leaves of each part of the state -/

/-- The parameters are no state of the unit (R34). -/
theorem Effect.cfg_eq (e : Effect s t) : t.cfg = s.cfg := by
  cases e <;> rfl

/-- What a step delivers: nothing, or one completion that ends the operation; its data, if any, are `FBUF` (R11, R141,
R150). -/
theorem Effect.completions_cases (e : Effect s t) :
    t.completions = s.completions ∨
    ∃ k, t.completions = s.completions ++ [k] ∧ t.phase = .idle ∧ (k.qData = none ∨ k.qData = some s.fbuf) := by
  cases e with
  | sigFails | checksum | readExhausted | readError | writeUnsent | writeExhausted | writeError | writeOk =>
    exact .inr ⟨_, rfl, rfl, .inl rfl⟩
  | readOk => exact .inr ⟨_, rfl, rfl, .inr rfl⟩
  | codec _ _ k _ _ _ _ _ hq => exact .inr ⟨k, rfl, rfl, .inl hq⟩
  | _ => exact .inl rfl

/-- A reset discards at most the answer to the outstanding transaction (R231). -/
theorem busAnswersAfterReset_suffix (s : State) : busAnswersAfterReset s <:+ s.busAnswers := by
  cases hp : s.phase with
  | rdBus | wrBus => simp [busAnswersAfterReset, hp, List.tail_suffix]
  | _ => simp [busAnswersAfterReset, hp]

/-- Answers of the bus are only ever taken, from the front (R180). -/
theorem Effect.busAnswers_suffix (e : Effect s t) : t.busAnswers <:+ s.busAnswers := by
  cases e with
  | reset => exact busAnswersAfterReset_suffix s
  | readResponse a rest _ _ hb | writeExhausted a rest _ _ hb | writeRetry a rest _ _ hb | writeError a rest _ _ hb
  | writeOk a rest _ _ hb | otherAnswer _ a rest _ _ _ hb | otherCall _ _ _ a rest _ _ _ _ hb =>
    exact hb ▸ List.suffix_cons a rest
  | _ => exact List.suffix_rfl

/-! ### `PhaseInv`, phase by phase -/

theorem phaseInv_of_idle (hp : s.phase = .idle) : PhaseInv s := by
  simp [PhaseInv, hp]

theorem phaseInv_of_ckSig (hp : s.phase = .ckSig) : PhaseInv s := by
  simp [PhaseInv, hp]

theorem phaseInv_iff_of_read (hp : s.phase = .rdBus ∨ s.phase = .rdSig) :
    PhaseInv s ↔ 1 ≤ s.attempt ∧ s.xcmd = readCommand s := by
  rcases hp with hp | hp <;> simp [PhaseInv, hp]

theorem phaseInv_iff_of_wrSig (hp : s.phase = .wrSig) : PhaseInv s ↔ s.attempt = 0 := by
  simp [PhaseInv, hp]

theorem phaseInv_iff_of_wrBus (hp : s.phase = .wrBus) :
    PhaseInv s ↔ 1 ≤ s.attempt ∧ s.xcmd = writeCommand s ∧ s.csum = ck s.cfg s.fbuf := by
  simp [PhaseInv, hp]

/-! ### Each field of the invariant is kept -/

/-- `ATTEMPT` stays within the budget: an attempt is sent only while it is not used up (R25, R149). -/
theorem Effect.attempt_le (e : Effect s t) (h : Inv s) : t.attempt ≤ s.cfg.retryBudget := by
  have hle := h.attempt
  cases e with
  | reset | acceptWrite => exact Nat.zero_le _
  | readRetry _ _ _ _ _ ha | writeSend _ _ _ _ ha | writeRetry _ _ _ _ _ _ ha =>
    exact Nat.lt_of_le_of_ne hle ha
  | acceptRead => exact budget_pos h.cfg
  | _ => exact hle

/-- `FBUF` is loaded only with whole frames: at reset, from a read's answer, from a write's operand (R22). -/
theorem Effect.fbuf_wf (e : Effect s t) (h : Inv s) : Frame.wf s.cfg.frameSize t.fbuf = true := by
  cases e with
  | reset => exact resetFbuf_wf _ _
  | readResponse a _ _ _ hb => exact h.answers a (by simp [hb])
  | acceptWrite _ _ _ _ _ _ _ _ hB => exact hB
  | _ => exact h.fbuf

/-- The operand of `CHECKSUM` changes only when one is accepted (R130). -/
theorem Effect.ckData_wf (e : Effect s t) (h : Inv s) : Frame.wf s.cfg.frameSize t.ckData = true := by
  cases e with
  | acceptChecksum _ _ _ _ _ _ _ hB => exact hB
  | _ => exact h.ckData

/-- Delivered data are whole frames, because `FBUF` is one (R91). -/
theorem Effect.delivered_wf (e : Effect s t) (h : Inv s) :
    ∀ k ∈ t.completions, ∀ B, k.qData = some B → Frame.wf s.cfg.frameSize B = true := by
  rcases e.completions_cases with hc | ⟨k, hc, -, hq⟩
  · exact hc ▸ h.delivered
  · intro k' hk' B hB
    rw [hc, List.mem_append, List.mem_singleton] at hk'
    rcases hk' with hk' | rfl
    · exact h.delivered k' hk' B hB
    · rcases hq with hq | hq
      · cases hq.symm.trans hB
      · cases hq.symm.trans hB
        exact h.fbuf

/-- A transfer starts with no other master waiting, and no other master calls while it runs (R240). -/
theorem Effect.extCall_eq_none (e : Effect s t) (h : Inv s) (hbusy : t.phase ≠ .idle) : t.extCall = none := by
  cases e with
  | wait => exact h.exclusive hbusy
  | readResponse _ _ _ hp | readRetry _ _ hp | writeSend _ _ hp | writeRetry _ _ _ hp =>
    exact h.exclusive (by simp [hp])
  | acceptChecksum _ _ _ _ _ he | acceptRead _ _ _ _ _ he | acceptWrite _ _ _ _ _ _ he => exact he
  | idle _ hp | otherAnswer _ _ _ _ hp | otherCall _ _ _ _ _ _ hp | otherWait _ _ _ _ hp => exact absurd hp hbusy
  | _ => exact absurd rfl hbusy

/-- The registers of the phase: every attempt puts its own command word into `XCMD`, and a write's attempts send the
checksum that `WR_SIG` took of `FBUF` (R23, R25, R26). -/
theorem Effect.phaseInv (e : Effect s t) (h : Inv s) : PhaseInv t := by
  have hphase := h.phase
  cases e with
  | wait => exact hphase
  | readResponse _ _ _ hp =>
    obtain ⟨hattempt, hxcmd⟩ := (phaseInv_iff_of_read (.inl hp)).1 hphase
    exact (phaseInv_iff_of_read (.inr rfl)).2 ⟨hattempt, hxcmd⟩
  | readRetry | acceptRead => exact (phaseInv_iff_of_read (.inl rfl)).2 ⟨Nat.succ_pos _, rfl⟩
  | writeSend => exact (phaseInv_iff_of_wrBus rfl).2 ⟨Nat.succ_pos _, rfl, rfl⟩
  | writeRetry _ _ _ hp =>
    obtain ⟨-, -, hcsum⟩ := (phaseInv_iff_of_wrBus hp).1 hphase
    exact (phaseInv_iff_of_wrBus rfl).2 ⟨Nat.succ_pos _, rfl, hcsum⟩
  | acceptChecksum => exact phaseInv_of_ckSig rfl
  | acceptWrite => exact (phaseInv_iff_of_wrSig rfl).2 rfl
  | idle _ hp | otherAnswer _ _ _ _ hp | otherCall _ _ _ _ _ _ hp | otherWait _ _ _ _ hp => exact phaseInv_of_idle hp
  | _ => exact phaseInv_of_idle rfl

/-- Every transition keeps the whole invariant. -/
theorem Effect.inv (e : Effect s t) (h : Inv s) : Inv t where
  cfg := e.cfg_eq ▸ h.cfg
  attempt := e.cfg_eq ▸ e.attempt_le h
  fbuf := e.cfg_eq ▸ e.fbuf_wf h
  ckData := e.cfg_eq ▸ e.ckData_wf h
  answers a ha := e.cfg_eq ▸ h.answers a (e.busAnswers_suffix.subset ha)
  delivered := e.cfg_eq ▸ e.delivered_wf h
  exclusive := e.extCall_eq_none h
  phase := e.phaseInv h

/-! ### The statements -/

/-- Settles O40: a step is one of the transitions of `Effect`, and each keeps every field of the invariant. -/
theorem stepKeepsInvariant : Obligations.StepKeepsInvariant := by
  unfold Obligations.StepKeepsInvariant
  intro s t hinv hstep
  exact (step_effect hstep).inv hinv

/-- Settles O12: a configuration that passed the test would meet all five constraints. -/
theorem brokenConfigurationIsRefused : Obligations.BrokenConfigurationIsRefused := by
  unfold Obligations.BrokenConfigurationIsRefused
  intro s hbroken
  refine step_of_not_wf (Bool.eq_false_iff.2 fun hwf => ?_)
  obtain ⟨hops, hretry, hsig, hframe, hblock⟩ := Config.wf_constraints hwf
  rcases hbroken with h | h | h | h | h
  · exact h hops
  all_goals omega

/-- Settles O43: only the transitions that end an operation deliver, and each delivers one completion. -/
theorem atMostOneCompletionPerStep : Obligations.AtMostOneCompletionPerStep := by
  unfold Obligations.AtMostOneCompletionPerStep
  intro s t hstep
  rcases (step_effect hstep).completions_cases with hnone | ⟨k, hone, hidle, -⟩
  · exact .inl hnone
  · exact .inr ⟨k, hone, hidle⟩

end Machine

end Sys2Proof
end

section
/-! The state family (10_state.md): the state after reset meets the invariant, no step changes a parameter, `ATTEMPT`
counts the bus transactions of a transfer, the attempts of a read send one word, and nothing an earlier operation left
in the registers reaches the outside. -/

namespace Sys2Proof.Machine

variable {s t : State}

/-! ### What a busy unit calls -/

/-- What a busy unit's step calls: no transaction, and `ATTEMPT` and `XCMD` stay; or one transaction, the next attempt
of the transfer in progress, whose word goes to `XCMD` (R25, R26, R160). -/
theorem Effect.calls_of_busy (e : Effect s t) (hr : s.resetLine = false) (hp : s.phase ≠ .idle) :
    ((t.calls = s.calls ∨ ∃ B, t.calls = s.calls ++ [.sig B]) ∧ t.attempt = s.attempt ∧ t.xcmd = s.xcmd) ∨
    (∃ w d, t.calls = s.calls ++ [.bus w s.fbuf d] ∧ t.attempt = s.attempt + 1 ∧ t.xcmd = w ∧
      (s.phase = .rdSig ∧ w = readCommand s ∧ d = .rd ∨
        (s.phase = .wrSig ∨ s.phase = .wrBus) ∧ d = .wr)) := by
  cases e with
  | reset hr' => cases hr.symm.trans hr'
  | readResponse a => exact .inl ⟨.inr ⟨a.buffer, rfl⟩, rfl, rfl⟩
  | readRetry _ _ hrd => exact .inr ⟨_, .rd, rfl, rfl, rfl, .inl ⟨hrd, rfl, rfl⟩⟩
  | writeSend _ _ hwr => exact .inr ⟨_, .wr, rfl, rfl, rfl, .inr ⟨.inl hwr, rfl⟩⟩
  | writeRetry _ _ _ hwr => exact .inr ⟨_, .wr, rfl, rfl, rfl, .inr ⟨.inr hwr, rfl⟩⟩
  | wait | sigFails | checksum | readExhausted | readError | readOk | writeUnsent | writeExhausted | writeError
  | writeOk => exact .inl ⟨.inl rfl, rfl, rfl⟩
  | idle _ hi | otherAnswer _ _ _ _ hi | otherCall _ _ _ _ _ _ hi | otherWait _ _ _ _ hi | codec _ _ _ _ hi
  | acceptChecksum _ _ _ _ hi | acceptRead _ _ _ _ hi | acceptWrite _ _ _ _ _ hi => exact absurd hi hp

/-- `FIDX` is written only at reset and when a transfer is accepted (R21). -/
theorem Effect.fidx_of_busy (e : Effect s t) (hr : s.resetLine = false) (hp : s.phase ≠ .idle) : t.fidx = s.fidx := by
  cases e with
  | reset hr' => cases hr.symm.trans hr'
  | acceptRead _ _ _ _ hi | acceptWrite _ _ _ _ _ hi => exact absurd hi hp
  | _ => rfl

/-! ### What of the registers a phase still reads -/

/-- The registers that the rest of the operation reads are equal: those that an operation wrote itself, from its
acceptance on (R21 to R29). In `IDLE` there are none. -/
def LiveRegistersEq (s t : State) : Prop :=
  match s.phase with
  | .idle => True
  | .ckSig => s.ckData = t.ckData
  | .rdBus => s.fidx = t.fidx ∧ s.attempt = t.attempt
  | .rdSig => s.fidx = t.fidx ∧ s.attempt = t.attempt ∧ s.fbuf = t.fbuf ∧ s.xrsp = t.xrsp
  | .wrSig => s.fidx = t.fidx ∧ s.attempt = t.attempt ∧ s.fbuf = t.fbuf
  | .wrBus => s.fidx = t.fidx ∧ s.attempt = t.attempt ∧ s.csum = t.csum

/-- The relation every step keeps: nothing outside tells the two units apart, nor will anything in their registers. -/
structure Alike (s t : State) : Prop extends SameOutside s t where
  live : LiveRegistersEq s t

/-- In `IDLE` the registers are left over from earlier operations. -/
theorem SameOutside.alike_of_idle (h : SameOutside s t) (hp : s.phase = .idle) : Alike s t :=
  ⟨h, by simp [LiveRegistersEq, hp]⟩

/-! ### The shared operations, run by two units alike from outside -/

theorem SameOutside.alike_complete (h : SameOutside s t) (k : Completion) : Alike (complete k s) (complete k t) :=
  SameOutside.alike_of_idle { h with phase := rfl, completions := by simp [h.completions] } rfl

theorem SameOutside.alike_completeOk (h : SameOutside s t) (k : Completion) : Alike (completeOk k s) (completeOk k t) :=
  have hstatus : SameOutside { s with status := .ok } { t with status := .ok } := { h with }
  hstatus.alike_complete k

theorem SameOutside.alike_raise (h : SameOutside s t) (e : TransferError) : Alike (raise e s) (raise e t) :=
  have hstatus : SameOutside { s with status := errorStatus e } { t with status := errorStatus e } := { h with }
  hstatus.alike_complete _

@[simp] theorem commandWords_callSig (f : Frame) (s : State) : commandWords (callSig f s) = commandWords s := by
  simp [commandWords, Call.word]

@[simp] theorem commandWords_sendAttempt (w : Xr) (d : Dir) (p : Phase) (s : State) :
    commandWords (sendAttempt w d p s) = commandWords s ++ [w] := by
  simp [commandWords, Call.word]

theorem SameOutside.callSig (h : SameOutside s t) (f : Frame) : SameOutside (callSig f s) (callSig f t) :=
  { h with commandWords := by simp [h.commandWords] }

theorem SameOutside.sendAttempt (h : SameOutside s t) (w : Xr) (d : Dir) (p : Phase) :
    SameOutside (sendAttempt w d p s) (sendAttempt w d p t) :=
  { h with phase := rfl, commandWords := by simp [h.commandWords] }

theorem SameOutside.alike_issueRead (h : SameOutside s t) (hf : s.fidx = t.fidx) (ha : s.attempt = t.attempt) :
    Alike (issueRead s) (issueRead t) := by
  have hw : readCommand s = readCommand t := by simp only [readCommand, h.cfg, hf]
  rw [issueRead_eq, issueRead_eq, ha, h.cfg, hw]
  split
  · exact h.alike_raise _
  · exact ⟨h.sendAttempt _ _ _, hf, by simp [ha]⟩

theorem SameOutside.alike_issueWrite (h : SameOutside s t) (hf : s.fidx = t.fidx) (ha : s.attempt = t.attempt)
    (hc : s.csum = t.csum) : Alike (issueWrite s) (issueWrite t) := by
  have hw : writeCommand s = writeCommand t := by simp only [writeCommand, h.cfg, hf, hc]
  rw [issueWrite_eq, issueWrite_eq, ha, h.cfg, hw]
  split
  · exact h.alike_raise _
  · exact ⟨h.sendAttempt _ _ _, hf, by simp [ha], hc⟩

/-! ### The sequencer -/

theorem SameOutside.alike_judgeRead (h : SameOutside s t) (hf : s.fidx = t.fidx) (ha : s.attempt = t.attempt)
    (hb : s.fbuf = t.fbuf) (hx : s.xrsp = t.xrsp) (hc : s.csum = t.csum) : Alike (judgeRead s) (judgeRead t) := by
  unfold judgeRead
  rw [hc, hx, h.cfg, hb]
  split
  · exact h.alike_issueRead hf ha
  · split
    · exact h.alike_raise _
    · exact h.alike_completeOk _

theorem SameOutside.alike_judgeWrite (h : SameOutside s t) (hf : s.fidx = t.fidx) (ha : s.attempt = t.attempt)
    (hx : s.xrsp = t.xrsp) (hc : s.csum = t.csum) : Alike (judgeWrite s) (judgeWrite t) := by
  unfold judgeWrite
  rw [hc, hx, h.cfg]
  split
  · exact h.alike_issueWrite hf ha hc
  · split
    · exact h.alike_raise _
    · exact h.alike_completeOk _

theorem SameOutside.takeSig (h : SameOutside s t) (rest : List SigAnswer) :
    SameOutside { s with sigAnswers := rest } { t with sigAnswers := rest } :=
  { h with sigAnswers := rfl }

theorem Alike.checksumAnswered (h : Alike s t) (hp : s.phase = .ckSig) :
    Alike (checksumAnswered s) (checksumAnswered t) := by
  have hd : s.ckData = t.ckData := by simpa [LiveRegistersEq, hp] using h.live
  have hk : ck s.cfg s.ckData = ck t.cfg t.ckData := by rw [h.cfg, hd]
  cases hs : s.sigAnswers with
  | nil => simpa only [Machine.checksumAnswered, hs, h.sigAnswers ▸ hs] using h
  | cons a rest =>
    simp only [Machine.checksumAnswered, hs, h.sigAnswers ▸ hs]
    cases a with
    | fail => exact (h.takeSig rest).alike_raise _
    | ok =>
      simp only [checksumOf_ok, hk]
      exact (h.takeSig rest).alike_completeOk _

theorem Alike.readAnswered (h : Alike s t) (hp : s.phase = .rdBus) : Alike (readAnswered s) (readAnswered t) := by
  obtain ⟨hf, ha⟩ : s.fidx = t.fidx ∧ s.attempt = t.attempt := by simpa [LiveRegistersEq, hp] using h.live
  cases hb : s.busAnswers with
  | nil => simpa only [Machine.readAnswered, hb, h.busAnswers ▸ hb] using h
  | cons a rest =>
    simp only [Machine.readAnswered, hb, h.busAnswers ▸ hb]
    have hnew : SameOutside { s with busAnswers := rest, xrsp := a.response, fbuf := a.buffer, phase := .rdSig }
        { t with busAnswers := rest, xrsp := a.response, fbuf := a.buffer, phase := .rdSig } :=
      { h.toSameOutside with phase := rfl, busAnswers := rfl }
    exact ⟨hnew.callSig _, hf, ha, rfl, rfl⟩

theorem Alike.readChecked (h : Alike s t) (hp : s.phase = .rdSig) : Alike (readChecked s) (readChecked t) := by
  obtain ⟨hf, ha, hb, hx⟩ : s.fidx = t.fidx ∧ s.attempt = t.attempt ∧ s.fbuf = t.fbuf ∧ s.xrsp = t.xrsp := by
    simpa [LiveRegistersEq, hp] using h.live
  have hk : ck s.cfg s.fbuf = ck t.cfg t.fbuf := by rw [h.cfg, hb]
  cases hs : s.sigAnswers with
  | nil => simpa only [Machine.readChecked, hs, h.sigAnswers ▸ hs] using h
  | cons a rest =>
    simp only [Machine.readChecked, hs, h.sigAnswers ▸ hs]
    cases a with
    | fail => exact (h.takeSig rest).alike_raise _
    | ok =>
      have hnew : SameOutside { s with sigAnswers := rest, csum := ck s.cfg s.fbuf }
          { t with sigAnswers := rest, csum := ck t.cfg t.fbuf } := { h.takeSig rest with }
      exact hnew.alike_judgeRead hf ha hb hx hk

theorem Alike.writeChecked (h : Alike s t) (hp : s.phase = .wrSig) : Alike (writeChecked s) (writeChecked t) := by
  obtain ⟨hf, ha, hb⟩ : s.fidx = t.fidx ∧ s.attempt = t.attempt ∧ s.fbuf = t.fbuf := by
    simpa [LiveRegistersEq, hp] using h.live
  have hk : ck s.cfg s.fbuf = ck t.cfg t.fbuf := by rw [h.cfg, hb]
  cases hs : s.sigAnswers with
  | nil => simpa only [Machine.writeChecked, hs, h.sigAnswers ▸ hs] using h
  | cons a rest =>
    simp only [Machine.writeChecked, hs, h.sigAnswers ▸ hs]
    cases a with
    | fail => exact (h.takeSig rest).alike_raise _
    | ok =>
      have hnew : SameOutside { s with sigAnswers := rest, csum := ck s.cfg s.fbuf }
          { t with sigAnswers := rest, csum := ck t.cfg t.fbuf } := { h.takeSig rest with }
      exact hnew.alike_issueWrite hf ha hk

theorem Alike.writeAnswered (h : Alike s t) (hp : s.phase = .wrBus) : Alike (writeAnswered s) (writeAnswered t) := by
  obtain ⟨hf, ha, hc⟩ : s.fidx = t.fidx ∧ s.attempt = t.attempt ∧ s.csum = t.csum := by
    simpa [LiveRegistersEq, hp] using h.live
  cases hb : s.busAnswers with
  | nil => simpa only [Machine.writeAnswered, hb, h.busAnswers ▸ hb] using h
  | cons a rest =>
    simp only [Machine.writeAnswered, hb, h.busAnswers ▸ hb]
    have hnew : SameOutside { s with busAnswers := rest, xrsp := a.response }
        { t with busAnswers := rest, xrsp := a.response } := { h.toSameOutside with busAnswers := rfl }
    exact hnew.alike_judgeWrite hf ha rfl hc

theorem Alike.sequencer (h : Alike s t) : Alike (sequencer s) (sequencer t) := by
  cases hp : s.phase <;> simp only [Machine.sequencer, hp, h.phase ▸ hp]
  case idle => exact h
  case ckSig => exact h.checksumAnswered hp
  case rdBus => exact h.readAnswered hp
  case rdSig => exact h.readChecked hp
  case wrSig => exact h.writeChecked hp
  case wrBus => exact h.writeAnswered hp

/-! ### Reset and the idle unit -/

theorem SameOutside.alike_resetEvent (h : SameOutside s t) : Alike (resetEvent s) (resetEvent t) :=
  SameOutside.alike_of_idle
    { h with
      phase := rfl
      resetLine := rfl
      busAnswers := by simp only [resetEvent_busAnswers, busAnswersAfterReset, h.phase, h.busAnswers]
      sigAnswers := by simp only [resetEvent_sigAnswers, sigAnswersAfterReset, h.phase, h.sigAnswers] } rfl

theorem SameOutside.alike_otherAnswered (h : SameOutside s t) (hp : s.phase = .idle) :
    Alike (otherAnswered s) (otherAnswered t) := by
  cases hb : s.busAnswers with
  | nil => simpa only [otherAnswered, hb, h.busAnswers ▸ hb] using h.alike_of_idle hp
  | cons a rest =>
    simp only [otherAnswered, hb, h.busAnswers ▸ hb]
    exact SameOutside.alike_of_idle { h with busAnswers := rfl, extCall := rfl } hp

theorem SameOutside.alike_idleWait (h : SameOutside s t) (hp : s.phase = .idle) : Alike (idleWait s) (idleWait t) := by
  unfold idleWait
  rw [h.extCall]
  split
  · exact h.alike_of_idle hp
  · exact h.alike_otherAnswered hp

/-- What answers a next state for the one unit answers one for the other, and the two are alike. -/
def OutAlike (o p : Out) : Prop :=
  ∀ s', o = .next s' → ∃ t', p = .next t' ∧ Alike s' t'

theorem Alike.next (h : Alike s t) : OutAlike (.next s) (.next t) := by
  intro s' hs'
  cases hs'
  exact ⟨t, rfl, h⟩

theorem outAlike_refused (r : Refusal) (p : Out) : OutAlike (.refused r) p :=
  nofun

theorem SameOutside.accept (h : SameOutside s t) {n m : State} (hnm : Alike n m) :
    OutAlike (accept s n) (accept t m) := by
  intro s' hs'
  obtain ⟨hp, rfl⟩ := accept_next.1 hs'
  exact ⟨m, accept_next.2 ⟨h.phase ▸ hp, rfl⟩, hnm⟩

theorem SameOutside.acceptTransfer (h : SameOutside s t) {n m : State} (hnm : Alike n m) :
    OutAlike (acceptTransfer s n) (acceptTransfer t m) := by
  intro s' hs'
  obtain ⟨hp, he, rfl⟩ := acceptTransfer_next.1 hs'
  exact ⟨m, acceptTransfer_next.2 ⟨h.phase ▸ hp, h.extCall ▸ he, rfl⟩, hnm⟩

theorem SameOutside.otherTransaction (h : SameOutside s t) (w : Xr) :
    OutAlike (otherTransaction w s) (otherTransaction w t) := by
  intro s' hs'
  obtain ⟨hp, he, rfl⟩ := otherTransaction_next.1 hs'
  have hcall : SameOutside { s with extCall := some w, calls := s.calls ++ [.other w] }
      { t with extCall := some w, calls := t.calls ++ [.other w] } :=
    { h with
      extCall := rfl
      commandWords := by simpa [Machine.commandWords, Call.word] using h.commandWords }
  exact ⟨_, otherTransaction_next.2 ⟨h.phase ▸ hp, h.extCall ▸ he, rfl⟩, hcall.alike_otherAnswered hp⟩

theorem SameOutside.exec_idle (h : SameOutside s t) (hp : s.phase = .idle) (i : Instr) :
    OutAlike (exec i s) (exec i t) := by
  have hp' : t.phase = .idle := h.phase ▸ hp
  cases i with
  | init k k2 r | zeroBlock k k2 r | powoff k k2 r =>
    simp only [exec, execInit, execZeroBlock, execPowoff, h.cfg]
    exact h.otherTransaction _
  | rdframe f cs r | wrframe f cs r =>
    simp only [exec, execRdframe, execWrframe, hp, hp', h.cfg, reduceCtorEq, false_and, if_false]
    exact h.otherTransaction _
  | encode | decodeResult | decodeChecksum | decodeOp | decodeFrame => exact h.accept (h.alike_complete _)
  | checksum B =>
    have hnew : SameOutside { s with ckData := B, phase := .ckSig } { t with ckData := B, phase := .ckSig } :=
      { h with phase := rfl }
    exact h.accept ⟨hnew.callSig B, rfl⟩
  | readFrame f =>
    have hnew : SameOutside { s with fidx := f, attempt := 0 } { t with fidx := f, attempt := 0 } := { h with }
    exact h.acceptTransfer (hnew.alike_issueRead rfl rfl)
  | writeFrame f B =>
    have hnew : SameOutside { s with fidx := f, fbuf := B, attempt := 0, phase := .wrSig }
        { t with fidx := f, fbuf := B, attempt := 0, phase := .wrSig } := { h with phase := rfl }
    exact h.acceptTransfer ⟨hnew.callSig B, rfl, rfl, rfl⟩

theorem SameOutside.rejected (h : SameOutside s t) (e : DecodeError) (x : Wire) :
    OutAlike (rejected e x s) (rejected e x t) := by
  cases x with
  | command w => exact h.otherTransaction w
  | request r => cases e <;> exact outAlike_refused _ _

theorem SameOutside.runPresented (h : SameOutside s t) (hp : s.phase = .idle) (x : Wire) :
    OutAlike (runPresented x s) (runPresented x t) := by
  unfold Machine.runPresented
  rw [h.cfg]
  split
  · exact h.exec_idle hp _
  · exact h.rejected _ _

theorem fetch_eq_none_iff : fetch s = none ↔ s.extCall ≠ none ∨ s.inbox = [] := by
  cases he : s.extCall <;> cases hi : s.inbox <;> simp [fetch, he, hi]

/-- One step of two units that are alike. -/
theorem Alike.step (h : Alike s t) : OutAlike (step s) (step t) := by
  unfold Machine.step advance
  rw [← h.cfg, ← h.resetLine, ← h.phase]
  split
  · exact outAlike_refused _ _
  split
  · exact h.alike_resetEvent.next
  split
  · exact h.sequencer.next
  next hp =>
    have hidle : s.phase = .idle := not_not.1 hp
    cases hf : fetch s with
    | none =>
      have hf' : fetch t = none := by
        rw [fetch_eq_none_iff] at hf ⊢
        rwa [← h.extCall, ← h.inbox]
      rw [hf']
      exact (h.alike_idleWait hidle).next
    | some p =>
      obtain ⟨x, u⟩ := p
      obtain ⟨he, rest, hi, rfl⟩ := fetch_some hf
      rw [fetch_of_inbox (h.extCall ▸ he) (h.inbox ▸ hi)]
      have htaken : SameOutside { s with inbox := rest } { t with inbox := rest } :=
        { h.toSameOutside with inbox := rfl }
      exact htaken.runPresented hidle x

/-! ### Runs -/

/-- A run of `k + 1` steps that answers a next state is a step and a run of `k` steps. -/
theorem run_succ_next {k : Nat} (h : run (k + 1) s = .next t) : ∃ u, step s = .next u ∧ run k u = .next t := by
  cases hs : step s with
  | next u => exact ⟨u, rfl, run_succ hs ▸ h⟩
  | fault r => cases r
  | refused r =>
    have hc : Sys2Proof.core.step s = .refused r := hs
    simp only [run, Host.Core.run, hc] at h
    cases h

/-- A run of two units that are alike, by induction on the steps. -/
theorem Alike.run (h : Alike s t) (k : Nat) : OutAlike (run k s) (run k t) := by
  induction k generalizing s t with
  | zero => exact h.next
  | succ k ih =>
    intro s' hrun
    obtain ⟨u, hstep, hrest⟩ := run_succ_next hrun
    obtain ⟨v, hstep', huv⟩ := h.step u hstep
    rw [run_succ hstep']
    exact ih huv s' hrest

/-! ### The statements -/

/-- Settles O39: the default parameters meet R8, and the frame reset leaves in `FBUF` is a whole one. -/
theorem resetMeetsInvariant : Obligations.ResetMeetsInvariant := by
  unfold Obligations.ResetMeetsInvariant
  exact
    { cfg := by decide
      attempt := Nat.zero_le _
      fbuf := resetFbuf_wf _ _
      ckData := rfl
      answers := nofun
      delivered := nofun
      exclusive := absurd rfl
      phase := phaseInv_of_idle rfl }

/-- Settles O58: the values are the fields of `State.reset`, and the default parameters meet R8. -/
theorem resetLeavesIdleUnit : Obligations.ResetLeavesIdleUnit := by
  unfold Obligations.ResetLeavesIdleUnit
  exact ⟨rfl, rfl, rfl, ⟨resetMeetsInvariant.cfg, rfl⟩, rfl, rfl⟩

/-- Settles O16: no transition writes the parameters. -/
theorem stepsKeepConfiguration : Obligations.StepsKeepConfiguration := by
  unfold Obligations.StepsKeepConfiguration
  intro s t hstep
  exact (step_effect hstep).cfg_eq

/-- Settles O50: the step that sends the next attempt is the one that counts it. -/
theorem attemptCountsBusTransactions : Obligations.AttemptCountsBusTransactions := by
  unfold Obligations.AttemptCountsBusTransactions
  intro s t ⟨_, hr⟩ hbusy hstep
  rcases (step_effect hstep).calls_of_busy hr hbusy with ⟨hnone | ⟨B, hsig⟩, ha, -⟩ | ⟨w, d, hbus, ha, -⟩
  · exact ⟨[], by simp [hnone], by simp, by simp [ha]⟩
  · exact ⟨[.sig B], hsig, by simp [Call.isBus], by simp [Call.isBus, ha]⟩
  · exact ⟨[.bus w s.fbuf d], hbus, by simp [Call.isBus], by simp [Call.isBus, ha]⟩

/-- Settles O52: an attempt sends `readCommand`, which the invariant says `XCMD` already holds. -/
theorem readAttemptsSendSameWord : Obligations.ReadAttemptsSendSameWord := by
  unfold Obligations.ReadAttemptsSendSameWord
  intro s t hinv ⟨_, hr⟩ hread hstep
  have hbusy : s.phase ≠ .idle := by rcases hread with hp | hp <;> simp [hp]
  obtain ⟨-, hxcmd⟩ := (phaseInv_iff_of_read hread).1 hinv.phase
  refine ⟨(step_effect hstep).fidx_of_busy hr hbusy, ?_⟩
  rcases (step_effect hstep).calls_of_busy hr hbusy with
    ⟨hnone | ⟨B, hsig⟩, -, hx⟩ | ⟨w, d, hbus, -, hx, ⟨-, hw, hd⟩ | ⟨hwrite, -⟩⟩
  · exact ⟨hx, [], by simp [hnone], by simp⟩
  · exact ⟨hx, [.sig B], hsig, by simp⟩
  · have hsame : w = s.xcmd := hw.trans hxcmd.symm
    exact ⟨hx.trans hsame, [.bus w s.fbuf d], hbus, by simp +contextual [hsame, hd]⟩
  · rcases hread with hp | hp <;> simp [hp] at hwrite

/-- Settles O41: in `IDLE` the two units are alike, and alike units stay so step by step. -/
theorem oldRegistersDoNotMatter : Obligations.OldRegistersDoNotMatter := by
  unfold Obligations.OldRegistersDoNotMatter
  intro s t k s' hidle hsame hrun
  obtain ⟨t', hrun', halike⟩ := (hsame.alike_of_idle hidle).run k s' hrun
  exact ⟨t', hrun', halike.toSameOutside⟩

end Sys2Proof.Machine
end

section
/-! The memory family (20_memory.md): what an `OK` read and an `OK` write establish about the frame in `FBUF`, and which
transactions the unit makes for it. -/

namespace Sys2Proof.Machine

variable {s t : State} {k : Completion}

/-! ### The transition a delivered completion comes from -/

/-- A step's one new completion is determined by the states before and after it. -/
theorem delivered_unique {k' : Completion} (h : t.completions = s.completions ++ [k])
    (h' : t.completions = s.completions ++ [k']) : k = k' := by
  simpa using h.symm.trans h'

/-- Data come from T9 alone: the other transitions that deliver leave `Q_DATA` undriven (R62, R146). -/
theorem Effect.readOk_of_data {B : Frame} (e : Effect s t) (hk : t.completions = s.completions ++ [k])
    (hB : k.qData = some B) :
    s.phase = .rdSig ∧ (∃ rest, s.sigAnswers = .ok :: rest) ∧ ck s.cfg s.fbuf = Xr.checksum s.xrsp ∧
      responseFails s.cfg s.xrsp = false ∧ k = { status := .ok, qData := some s.fbuf } := by
  cases e with
  | readOk rest _ hp hs hm hf => exact ⟨hp, ⟨rest, hs⟩, hm, hf, delivered_unique hk rfl⟩
  | sigFails | checksum | readExhausted | readError | writeUnsent | writeExhausted | writeError | writeOk =>
    cases delivered_unique hk rfl
    cases hB
  | codec _ _ _ _ _ _ _ _ hnone =>
    cases delivered_unique hk rfl
    cases hnone.symm.trans hB
  | _ => exact absurd hk (by simp)

/-- An `OK` completion of a write comes from T15 alone: every other end of it raises an error (R63, R154). -/
theorem Effect.writeOk_of_ok (e : Effect s t) (hp : s.phase = .wrBus) (hk : t.completions = s.completions ++ [k])
    (hok : k.status = .ok) :
    ∃ a rest, s.busAnswers = a :: rest ∧ Xr.checksum a.response = s.csum ∧ responseFails s.cfg a.response = false := by
  cases e with
  | writeOk a rest _ _ hb hm hf => exact ⟨a, rest, hb, hm, hf⟩
  | sigFails | readExhausted | readError | writeUnsent | writeExhausted | writeError =>
    cases delivered_unique hk rfl
    cases hok
  | checksum _ _ hp' | readOk _ _ hp' | codec _ _ _ _ hp' => cases hp.symm.trans hp'
  | _ => exact absurd hk (by simp)

/-! ### The calls of any step -/

/-- What any step calls: nothing, something that is no transaction of the unit, or the one transaction of an attempt,
whose word is then in `XCMD` and whose buffer is `FBUF` (R26, R51, R160). -/
theorem Effect.calls_cases (e : Effect s t) :
    t.calls = s.calls ∨ (∃ c, t.calls = s.calls ++ [c] ∧ c.isBus = false) ∨
    (t.calls = s.calls ++ [.bus t.xcmd t.fbuf .rd] ∧ t.phase = .rdBus ∧ t.xcmd = readCommand t) ∨
    (t.calls = s.calls ++ [.bus t.xcmd t.fbuf .wr] ∧ t.phase = .wrBus ∧ t.xcmd = writeCommand t) := by
  cases e with
  | readRetry | acceptRead => exact .inr (.inr (.inl ⟨rfl, rfl, rfl⟩))
  | writeSend | writeRetry => exact .inr (.inr (.inr ⟨rfl, rfl, rfl⟩))
  | readResponse | acceptChecksum | acceptWrite | otherCall | otherWait => exact .inr (.inl ⟨_, rfl, rfl⟩)
  | _ => exact .inl rfl

/-! ### The statements -/

/-- Settles O48: only T9 delivers data, and T9 is taken only when the checksums agree and the result does not fail. -/
theorem okReadIsCorroborated : Obligations.OkReadIsCorroborated := by
  unfold Obligations.OkReadIsCorroborated
  intro s t k B _ hstep hk hB
  obtain ⟨hp, hsig, hm, hf, rfl⟩ := (step_effect hstep).readOk_of_data hk hB
  cases hB
  exact ⟨hp, rfl, rfl, hm, hf, hsig⟩

/-- Settles O49: T15 compares the echo with `CSUM`, which the invariant says is the checksum of `FBUF` and of the word
in `XCMD`. -/
theorem okWriteIsCorroborated : Obligations.OkWriteIsCorroborated := by
  unfold Obligations.OkWriteIsCorroborated
  intro s t k hinv _ hp hstep hk hok
  obtain ⟨-, hxcmd, hcsum⟩ := (phaseInv_iff_of_wrBus hp).1 hinv.phase
  obtain ⟨a, rest, hb, hm, hf⟩ := (step_effect hstep).writeOk_of_ok hp hk hok
  rw [← hcsum]
  exact ⟨hxcmd, a, rest, hb, hm, hf⟩

/-- Settles O51: the fields of `readCommand` and `writeCommand` read back as they were packed. -/
theorem unitSendsOnlyFrameTransfers : Obligations.UnitSendsOnlyFrameTransfers := by
  unfold Obligations.UnitSendsOnlyFrameTransfers
  intro s t hstep
  have hcfg := (step_effect hstep).cfg_eq
  rcases (step_effect hstep).calls_cases with hnone | ⟨c, hc, hother⟩ | ⟨hbus, hp, hx⟩ | ⟨hbus, hp, hx⟩
  · exact ⟨[], by simp [hnone], by simp⟩
  · refine ⟨[c], hc, fun w B d hmem => ?_⟩
    cases List.mem_singleton.1 hmem
    cases hother
  · refine ⟨_, hbus, fun w B d hmem => ?_⟩
    cases List.mem_singleton.1 hmem
    simp [hx, hp, readCommand, hcfg]
  · refine ⟨_, hbus, fun w B d hmem => ?_⟩
    cases List.mem_singleton.1 hmem
    simp [hx, hp, writeCommand, hcfg]

end Sys2Proof.Machine
end

section
/-! The encoding family (30_encoding.md): packing and unpacking the XR format, decoding what was encoded and encoding what
was decoded, what selects an operation and its operands, and what a ready or a busy unit does with what is presented. -/

namespace Sys2Proof

/-! ### Packing is concatenation, unpacking is slicing -/

/-- The four fields lie side by side (R80, R81). -/
theorem Xr.pack_eq_append (o : BitVec 8) (f : BitVec 16) (c : BitVec 32) (r : BitVec 8) :
    Xr.pack o f c r = o ++ f ++ c ++ r := by
  refine BitVec.eq_of_getLsbD_eq fun j _ => ?_
  have hc : j - 8 < 32 ↔ j < 40 := by omega
  have hf : j - (8 + 32) < 16 ↔ j < 56 := by omega
  have hbit : (o ++ f ++ c ++ r).getLsbD j = (Xr.pack o f c r).getLsbD j := by
    simp only [Xr.getLsbD_pack, BitVec.getLsbD_append, Nat.sub_sub, hc, hf]
  exact hbit.symm

/-- A concatenation's number is the sum of its parts: the parts share no bit (R81). -/
theorem toNat_append_eq_add {m n : Nat} (x : BitVec m) (y : BitVec n) :
    (x ++ y).toNat = x.toNat * 2 ^ n + y.toNat := by
  rw [BitVec.toNat_append, ← Nat.shiftLeft_add_eq_or_of_lt y.isLt, Nat.shiftLeft_eq]

/-- A zero-extended slice is the word shifted right and masked (R82). -/
theorem setWidth_extractLsb'_eq_and_mask (w : Xr) (start len : Nat) :
    (w.extractLsb' start len).setWidth 64 = (w >>> start) &&& BitVec.ofNat 64 (2 ^ len - 1) := by
  refine BitVec.eq_of_getLsbD_eq fun j hj => ?_
  simp only [BitVec.getLsbD_setWidth, BitVec.getLsbD_extractLsb', BitVec.getLsbD_and, BitVec.getLsbD_ushiftRight,
    BitVec.getLsbD_ofNat, Nat.testBit_two_pow_sub_one, hj, decide_true, Bool.true_and, Bool.and_comm]

/-! ### The decoder, case by case -/

/-- A word whose `op` byte is none of the five is no instruction (R96). -/
theorem decodeCommand_reservedOp {c : Config} {w : Xr} (h : Xr.op w ∉ c.opCodes) :
    decodeCommand c w = .error (.reservedOp (Xr.op w)) := by
  simp only [Config.opCodes, List.mem_cons, List.not_mem_nil, or_false, not_or] at h
  simp [decodeCommand, h]

/-- The eight codes of R95, and the reserved ones (R93). -/
theorem cmd_cases (cmd : BitVec 4) :
    cmd = 0 ∨ (cmd = 1 ∨ cmd = 2 ∨ cmd = 3 ∨ cmd = 4) ∨ cmd = 5 ∨ cmd = 6 ∨ cmd = 7 ∨ 8 ≤ cmd.toNat := by
  decide +revert

/-- A request with a reserved `CMD` is no instruction (R93). -/
theorem decodeRequest_reservedCmd (c : Config) {r : Request} (h : 8 ≤ r.cmd.toNat) :
    decodeRequest c r = .error (.reservedCmd r.cmd) := by
  unfold decodeRequest
  split
  case h_9 => rfl
  all_goals omega

/-- Decoding undoes encoding, for every well-formed instruction (R94, R95): a command word is told by its `op` byte, and
the five codes are distinct (R8); a request is told by its `CMD`, and its data operand is a frame. -/
theorem decode_encode {c : Config} {i : Instr} (hc : c.wf = true) (hi : WellFormed c i = true) :
    decode c (encode c i) = .ok i := by
  have hops := Laws.OwnRow.opCodes_distinct hc
  cases i with
  | init | zeroBlock | rdframe | wrframe | powoff => simp [decode, encode, decodeCommand, hops]
  | checksum data | writeFrame _ data =>
    have hdata : Frame.wf c.frameSize data = true := hi
    simp [decode, encode, decodeRequest, hdata]
  | encode | decodeResult | decodeChecksum | decodeOp | decodeFrame | readFrame => rfl

namespace Machine

variable {s t : State}

/-! ### What a unit does with what is presented -/

/-- A ready unit meets what is no instruction as `rejected` says (R93, R96). -/
theorem step_of_decode_error {x : Wire} {rest : List Wire} {e : DecodeError} (hr : Ready s) (hi : s.inbox = x :: rest)
    (hd : decode s.cfg x = .error e) : step s = rejected e x { s with inbox := rest } := by
  obtain ⟨⟨hwf, hline⟩, hp, he⟩ := hr
  simp [step, advance, runPresented, hwf, hline, hp, fetch_of_inbox he hi, hd]

/-- Another master's call that the bus answers at once changes nothing in the unit (R96, R189). -/
theorem otherTransaction_answered {a : BusAnswer} {more : List BusAnswer} (hp : s.phase = .idle)
    (he : s.extCall = none) (hb : s.busAnswers = a :: more) (w : Xr) :
    otherTransaction w s =
      .next { s with busAnswers := more, extReply := some a, calls := s.calls ++ [.other w] } := by
  refine otherTransaction_next.2 ⟨hp, he, ?_⟩
  simp [otherAnswered, hb, he]

/-- A request has no meaning while the unit is busy (R92). -/
theorem exec_request_busy {i : Instr} (hi : i.isRequest = true) (hp : s.phase ≠ .idle) :
    exec i s = .refused .busy := by
  cases i with
  | init | zeroBlock | rdframe | wrframe | powoff => cases hi
  | encode | decodeResult | decodeChecksum | decodeOp | decodeFrame | checksum | readFrame | writeFrame =>
    exact if_neg hp

/-- Only an idle unit takes from the inbox (R92). -/
theorem Effect.inbox_of_busy (e : Effect s t) (hp : s.phase ≠ .idle) : t.inbox = s.inbox := by
  cases e with
  | otherCall _ _ _ _ _ _ hi | otherWait _ _ _ _ hi | codec _ _ _ _ hi | acceptChecksum _ _ _ _ hi
  | acceptRead _ _ _ _ hi | acceptWrite _ _ _ _ _ hi => exact absurd hi hp
  | _ => rfl

/-- A codec operation in an idle unit delivers its completion and changes nothing else (R119). -/
theorem accept_complete (hp : s.phase = .idle) (k : Completion) :
    accept s (complete k s) = .next { s with completions := s.completions ++ [k] } := by
  simp [accept, complete, hp]

/-- A codec operation presented to a ready unit: one step takes it and delivers its completion (R119). -/
theorem step_codec {i : Instr} {k : Completion} {rest : List Wire} (hr : Ready s) (hi : s.inbox = encode s.cfg i :: rest)
    (hw : WellFormed s.cfg i = true) (hexec : ∀ u, exec i u = accept u (complete k u)) :
    step s = .next { s with inbox := rest, completions := s.completions ++ [k] } := by
  have ⟨⟨hwf, _⟩, hp, _⟩ := hr
  rw [step_presented hr hi (decode_encode hwf hw), hexec]
  exact accept_complete (s := { s with inbox := rest }) hp k

/-- Codec operations presented one after another to a ready unit: each step takes one and delivers its completion. -/
theorem run_codec (ops : List (Instr × Completion)) {rest : List Wire} (hr : Ready s)
    (hi : s.inbox = ops.map (fun p => encode s.cfg p.1) ++ rest)
    (hops : ∀ p ∈ ops, WellFormed s.cfg p.1 = true ∧ ∀ u, exec p.1 u = accept u (complete p.2 u)) :
    run ops.length s = .next { s with inbox := rest, completions := s.completions ++ ops.map Prod.snd } := by
  induction ops generalizing s with
  | nil =>
    rw [List.map_nil, List.nil_append] at hi
    simp [← hi]
  | cons p ops ih =>
    obtain ⟨⟨hw, hexec⟩, hrest⟩ := List.forall_mem_cons.1 hops
    rw [List.length_cons, run_succ (step_codec hr hi hw hexec), List.map_cons,
      List.append_cons s.completions p.2 (ops.map Prod.snd)]
    exact ih hr rfl hrest

/-! ### The statements -/

/-- Settles O4: the round trip holds instruction by instruction. -/
theorem decodeAfterEncodeIsIdentity : Obligations.DecodeAfterEncodeIsIdentity := by
  unfold Obligations.DecodeAfterEncodeIsIdentity
  intro c i hc hi
  exact decode_encode hc hi

/-- Settles O1: the sum is the concatenation's number. -/
theorem packingIsConcatenationOfFields : Obligations.PackingIsConcatenationOfFields := by
  unfold Obligations.PackingIsConcatenationOfFields
  intro op frame cs rc
  refine ⟨rfl, Xr.pack_eq_append op frame cs rc, ?_⟩
  simp only [Xr.pack_eq_append, toNat_append_eq_add]
  omega

/-- Settles O2: each field is a slice, so one rule gives all four masks. -/
theorem fieldsAreShiftedMaskedSlices : Obligations.FieldsAreShiftedMaskedSlices := by
  unfold Obligations.FieldsAreShiftedMaskedSlices
  intro w
  have hlow : (Xr.result w).zeroExtend 64 = (w >>> 0) &&& 0xFF#64 := setWidth_extractLsb'_eq_and_mask w 0 8
  rw [BitVec.ushiftRight_zero] at hlow
  exact ⟨setWidth_extractLsb'_eq_and_mask w 56 8, setWidth_extractLsb'_eq_and_mask w 40 16,
    setWidth_extractLsb'_eq_and_mask w 8 32, hlow, rfl, rfl, rfl, rfl⟩

/-- Settles O5: the row's code is the word's `op` byte, so the encoder packs the word's own four fields. -/
theorem encodeAfterDecodeCommandIsIdentity : Obligations.EncodeAfterDecodeCommandIsIdentity := by
  unfold Obligations.EncodeAfterDecodeCommandIsIdentity
  intro c w i hdecode
  change decodeCommand c w = .ok i at hdecode
  unfold decodeCommand at hdecode
  split_ifs at hdecode with hop hop hop hop hop
  all_goals
    cases hdecode
    simp [encode, ← hop]

/-- Settles O6: the mnemonic of each row does not depend on its operands, and only the `op` byte chooses the row. -/
theorem opByteAloneSelectsCommand : Obligations.OpByteAloneSelectsCommand := by
  unfold Obligations.OpByteAloneSelectsCommand
  intro c w v hop
  simp only [decode, decodeCommand, hop, apply_ite (Except.map Instr.mnemonic)]
  rfl

/-- Settles O7: code by code, the operands R95 lists are the only ones the decoder reads. -/
theorem unlistedRequestOperandsAreIgnored : Obligations.UnlistedRequestOperandsAreIgnored := by
  unfold Obligations.UnlistedRequestOperandsAreIgnored
  rintro c ⟨cmd, _, _, _, _, _, _⟩ ⟨_, _, _, _, _, _, _⟩ rfl hencode hextract hchecksum hread hwrite
  rcases cmd_cases cmd with rfl | hextractor | rfl | rfl | rfl | hreserved
  · obtain ⟨rfl, rfl, rfl, rfl⟩ := hencode rfl
    rfl
  · obtain rfl := hextract hextractor
    rcases hextractor with rfl | rfl | rfl | rfl <;> rfl
  · obtain rfl := hchecksum rfl
    rfl
  · obtain rfl := hread rfl
    rfl
  · obtain ⟨rfl, rfl⟩ := hwrite rfl
    rfl
  · simp only [decode, decodeRequest_reservedCmd, hreserved]

/-- Settles O9: the decoder answers `reservedCmd`, and `rejected` refuses it by name. -/
theorem reservedCmdIsRefused : Obligations.ReservedCmdIsRefused := by
  unfold Obligations.ReservedCmdIsRefused
  intro s r rest hready hinbox hcmd
  have hd : decode s.cfg (.request r) = .error (.reservedCmd r.cmd) := decodeRequest_reservedCmd s.cfg hcmd
  exact ⟨hd, step_of_decode_error hready hinbox hd⟩

/-- Settles O13: acceptance tests `PHASE`, and no transition of a busy unit takes from the inbox. -/
theorem requestWhileBusyHasNoStep : Obligations.RequestWhileBusyHasNoStep := by
  unfold Obligations.RequestWhileBusyHasNoStep
  exact ⟨fun s i => exec_request_busy, fun s t _ hbusy hstep => (step_effect hstep).inbox_of_busy hbusy⟩

/-- Settles O23: each shorthand is a codec operation, and `DECODE` is four of them in a row. -/
theorem pseudoOperationsExpand : Obligations.PseudoOperationsExpand := by
  unfold Obligations.PseudoOperationsExpand
  refine fun s hidle => ⟨fun c f k cs k2 => ?_, fun reg rest hready hinbox => ?_⟩
  · simp only [List.forall_mem_cons]
    exact ⟨⟨_, rfl, accept_complete hidle _⟩, ⟨_, rfl, accept_complete hidle _⟩, ⟨_, rfl, accept_complete hidle _⟩,
      ⟨_, rfl, accept_complete hidle _⟩, ⟨_, rfl, accept_complete hidle _⟩, List.forall_mem_nil _⟩
  · exact run_codec
      [(.decodeOp reg, { status := .ok, qOp := some (Xr.op reg) }),
        (.decodeFrame reg, { status := .ok, qFrame := some (Xr.frame reg) }),
        (.decodeChecksum reg, { status := .ok, qCsum := some (Xr.checksum reg) }),
        (.decodeResult reg, { status := .ok, qRc := some (asI8 (Xr.result reg)) })]
      hready hinbox (by simp [WellFormed, exec, execDecodeOp, execDecodeFrame, execDecodeChecksum, execDecodeResult])

/-- Settles O56: the word is rejected as no instruction, and on the bus it is another master's call like any other. -/
theorem reservedOpIsAnsweredByBus : Obligations.ReservedOpIsAnsweredByBus := by
  unfold Obligations.ReservedOpIsAnsweredByBus
  intro s w rest a more hready hinbox hop hanswers
  have hd : decode s.cfg (.command w) = .error (.reservedOp (Xr.op w)) := decodeCommand_reservedOp hop
  refine ⟨hd, (step_of_decode_error hready hinbox hd).trans ?_⟩
  obtain ⟨-, hp, he⟩ := hready
  exact otherTransaction_answered (s := { s with inbox := rest }) hp he hanswers w

/-- Settles O60: packing loses no field, and the four fields lose no bit. -/
theorem xrRoundTrip : Obligations.XrRoundTrip := by
  unfold Obligations.XrRoundTrip
  refine ⟨fun op frame cs rc => by simp [Xr.unpack], fun reg => ⟨Xr.pack_fields reg, ?_⟩⟩
  exact (Xr.pack_eq_append _ _ _ _).symm.trans (Xr.pack_fields reg)

/-- Settles O8: the decoder, run on the five words of the statement. -/
theorem tableWordsDecode : Obligations.TableWordsDecode := by
  unfold Obligations.TableWordsDecode
  decide

/-- Settles O10: a ready unit fetches, decodes and dispatches in one step. -/
theorem stepRunsDecodedInstruction : Obligations.StepRunsDecodedInstruction := by
  unfold Obligations.StepRunsDecodedInstruction
  intro s x rest i hready hinbox hdecode
  exact step_presented hready hinbox hdecode

end Machine

end Sys2Proof
end

section
/-! The register codec family (40_register_codec.md): each codec operation delivers its one result and changes nothing else,
packing is a bijection, and the extractors take apart what `ENCODE` delivered. -/

namespace Sys2Proof

/-- The model's signed reading of a byte is the library's two's-complement reading (R13, R83). -/
theorem asI8_eq_toInt (b : BitVec 8) : asI8 b = b.toInt := by
  rw [BitVec.toInt_eq_toNat_cond, asI8]
  split <;> split <;> omega

/-- A request's code can be written out where it is known; the decoder's row is then found by computing (R95). -/
theorem decode_request_of_cmd (c : Config) {r : Request} {cmd : BitVec 4} (h : r.cmd = cmd) :
    decode c (.request r) = decode c (.request { r with cmd := cmd }) := by
  rw [← h]

namespace Machine

/-- An instruction that means "accept and complete" delivers its completion in an idle unit and changes nothing else; so
the unit is idle for the next (R119). -/
theorem exec_codec {i : Instr} {k : Completion} {s : State} (hexec : ∀ u, exec i u = accept u (complete k u))
    (hp : s.phase = .idle) : exec i s = .next { s with completions := s.completions ++ [k] } :=
  (hexec s).trans (accept_complete hp k)

/-! ### The statements -/

/-- Settles O3: unpacking is the inverse on both sides, and the signed reading of `result` loses nothing. -/
theorem encodeIsBijective : Obligations.EncodeIsBijective := by
  unfold Obligations.EncodeIsBijective
  obtain ⟨hunpack_pack, -⟩ := xrRoundTrip
  refine ⟨fun reg => by rw [asU8_asI8, Xr.pack_fields], Function.bijective_iff_has_inverse.2 ⟨Xr.unpack, ?_, ?_⟩⟩
  · rintro ⟨op, frame, cs, rc⟩
    exact hunpack_pack op frame cs rc
  · exact Xr.pack_fields

/-- Settles O22: no codec operation leaves `IDLE`, so the five complete one after another, and each field of the packed
word reads back. -/
theorem decodeAfterEncodeDeliversOperands : Obligations.DecodeAfterEncodeDeliversOperands := by
  unfold Obligations.DecodeAfterEncodeDeliversOperands
  intro s op frame cs rc hidle
  refine ⟨Xr.pack op frame cs rc, asI8 rc, _, _, _, _, _, exec_codec (fun _ => rfl) hidle,
    exec_codec (fun _ => rfl) hidle, exec_codec (fun _ => rfl) hidle, exec_codec (fun _ => rfl) hidle,
    exec_codec (fun _ => rfl) hidle, asU8_asI8 rc, ?_⟩
  simp only [Xr.op_pack, Xr.frame_pack, Xr.checksum_pack, Xr.result_pack, List.append_assoc,
    List.cons_append, List.nil_append]

/-- Settles O17: the packed word is the concatenation of the operands. -/
theorem encodeCompletes : Obligations.EncodeCompletes := by
  unfold Obligations.EncodeCompletes
  refine ⟨fun s op frame cs rc hidle => ?_, fun c r hcmd => decode_request_of_cmd c hcmd⟩
  rw [← Xr.pack_eq_append]
  exact exec_codec (fun _ => rfl) hidle

/-- Settles O18: the low byte is read as the two's-complement number it stands for. -/
theorem decodeResultCompletes : Obligations.DecodeResultCompletes := by
  unfold Obligations.DecodeResultCompletes
  refine ⟨fun s reg hidle => ?_, fun c r hcmd => decode_request_of_cmd c hcmd⟩
  have hresult : asI8 (Xr.result reg) = (reg.extractLsb 7 0).toInt := asI8_eq_toInt _
  rw [← hresult]
  exact exec_codec (fun _ => rfl) hidle

/-- Settles O19: the `checksum` field is bits 39:8. -/
theorem decodeChecksumCompletes : Obligations.DecodeChecksumCompletes := by
  unfold Obligations.DecodeChecksumCompletes
  exact ⟨fun s reg hidle => exec_codec (fun _ => rfl) hidle, fun c r hcmd => decode_request_of_cmd c hcmd⟩

/-- Settles O20: the `op` field is bits 63:56. -/
theorem decodeOpCompletes : Obligations.DecodeOpCompletes := by
  unfold Obligations.DecodeOpCompletes
  exact ⟨fun s reg hidle => exec_codec (fun _ => rfl) hidle, fun c r hcmd => decode_request_of_cmd c hcmd⟩

/-- Settles O21: the `frame` field is bits 55:40. -/
theorem decodeFrameCompletes : Obligations.DecodeFrameCompletes := by
  unfold Obligations.DecodeFrameCompletes
  exact ⟨fun s reg hidle => exec_codec (fun _ => rfl) hidle, fun c r hcmd => decode_request_of_cmd c hcmd⟩

end Machine

end Sys2Proof
end

section
/-! The checksum adapter family (41_checksum_adapter.md): a checksum is the first four signature bytes side by side, it is
a function of the frame's bytes and not an injective one, and `CHECKSUM` runs from its acceptance to its completion. -/

namespace Sys2Proof

/-! ### Frames of given bytes -/

/-- The frame with byte `v i` at every index `i` (R13). -/
def Frame.ofFn {n : Nat} (v : Fin n → Byte) : Frame :=
  Frame.ofBytes (List.ofFn v)

theorem Frame.ofFn_wf {n : Nat} (v : Fin n → Byte) : Frame.wf n (Frame.ofFn v) = true := by
  simpa [Frame.ofFn] using Frame.ofBytes_wf (List.ofFn v)

theorem Frame.byteAt_ofFn {n : Nat} (v : Fin n → Byte) (i : Fin n) : (Frame.ofFn v).byteAt i = v i := by
  simp [Frame.ofFn, Frame.byteAt_ofBytes]

/-- Different byte strings are different frames, so there are `256 ^ n` frames of `n` bytes (R134). -/
theorem Frame.ofFn_injective (n : Nat) : Function.Injective (Frame.ofFn (n := n)) := by
  intro v w h
  funext i
  rw [← Frame.byteAt_ofFn v i, h, Frame.byteAt_ofFn]

/-- Mathlib counts the `w`-bit words as an enumeration; the pigeonhole principle asks for them as a finite type. -/
theorem card_bitVec (w : Nat) : Fintype.card (BitVec w) = 2 ^ w := by
  rw [← FinEnum.card_eq_fintypeCard, FinEnum.card_bitVec]

/-- Byte strings of more than four bytes outnumber the 32-bit values (R134). -/
theorem card_bitVec_lt_card_bytes {n : Nat} (h : 4 < n) :
    Fintype.card (BitVec 32) < Fintype.card (Fin n → Byte) := by
  have hlt : (2 ^ 8) ^ 4 < (2 ^ 8) ^ n := Nat.pow_lt_pow_right (by decide) h
  rw [Fintype.card_fun, Fintype.card_fin, card_bitVec, card_bitVec]
  exact hlt

/-! ### Bytes side by side -/

/-- A value shifted left by the width of another, with the other or-ed in: the two side by side. -/
theorem shiftLeft_or_setWidth_eq_append {m n : Nat} (w : Nat) (x : BitVec m) (y : BitVec n) :
    (x.setWidth w <<< n) ||| y.setWidth w = (x ++ y).setWidth w := by
  refine BitVec.eq_of_getLsbD_eq fun j hj => ?_
  by_cases hlow : j < n
  · simp [BitVec.getLsbD_append, hj, hlow]
  · have hy : y.getLsbD j = false := BitVec.getLsbD_of_ge y j (Nat.le_of_not_lt hlow)
    simp [BitVec.getLsbD_append, hj, hlow, hy]

/-- Four bytes, each shifted to its place and or-ed in, lie side by side (R130). -/
theorem or_shifted_bytes_eq_append (b0 b1 b2 b3 : Byte) :
    (b0.setWidth 32 <<< 24) ||| (b1.setWidth 32 <<< 16) ||| (b2.setWidth 32 <<< 8) ||| b3.setWidth 32 =
      b0 ++ b1 ++ b2 ++ b3 :=
  calc
    _ = ((b0.setWidth 32 <<< 8 ||| b1.setWidth 32) <<< 8 ||| b2.setWidth 32) <<< 8 ||| b3.setWidth 32 := by
      simp only [BitVec.shiftLeft_or_distrib, ← BitVec.shiftLeft_add]
    _ = (b0 ++ b1 ++ b2 ++ b3).setWidth 32 := by simp only [shiftLeft_or_setWidth_eq_append]
    _ = b0 ++ b1 ++ b2 ++ b3 := BitVec.setWidth_eq _

theorem or_reverse {w : Nat} (x y z u : BitVec w) : x ||| y ||| z ||| u = u ||| z ||| y ||| x := by
  ac_rfl

namespace Machine

variable {s : State}

/-! ### The value of a checksum -/

/-- The checksum of a frame whose signature is known is its first four bytes in the order `CK_ORDER`; the bytes after
them do not matter (R130). -/
theorem ck_of_signature {c : Config} {f : Frame} {b0 b1 b2 b3 : Byte} {more : List Byte}
    (h : signature c f = b0 :: b1 :: b2 :: b3 :: more) :
    ck c f = if c.ckOrder = .little then b3 ++ b2 ++ b1 ++ b0 else b0 ++ b1 ++ b2 ++ b3 := by
  rw [ck, h]
  cases c.ckOrder with
  | little => exact (or_reverse _ _ _ _).trans (or_shifted_bytes_eq_append b3 b2 b1 b0)
  | big => exact or_shifted_bytes_eq_append b0 b1 b2 b3

/-! ### The two steps of `CHECKSUM` -/

/-- The acceptance of `CHECKSUM`, T1 (R130). -/
theorem exec_checksum (hp : s.phase = .idle) (B : Frame) :
    exec (.checksum B) s = .next { s with phase := .ckSig, ckData := B, calls := s.calls ++ [.sig B] } :=
  accept_next.2 ⟨hp, rfl⟩

/-- A ready unit takes a presented `CHECKSUM` in one step (T1). -/
theorem step_checksum {B : Frame} {rest : List Wire} (hr : Ready s) (hB : Frame.wf s.cfg.frameSize B = true)
    (hi : s.inbox = encode s.cfg (.checksum B) :: rest) :
    step s = .next { s with phase := .ckSig, ckData := B, inbox := rest, calls := s.calls ++ [.sig B] } := by
  have ⟨⟨hwf, _⟩, hp, _⟩ := hr
  rw [step_presented hr hi (decode_encode hwf hB)]
  exact exec_checksum (s := { s with inbox := rest }) hp B

/-- The end of `CHECKSUM`, T2 or T3: the signature primitive's answer decides between the error and the result. -/
theorem step_of_ckSig {a : SigAnswer} {more : List SigAnswer} (hr : Running s) (hp : s.phase = .ckSig)
    (hs : s.sigAnswers = a :: more) :
    step s = .next { s with
      phase := .idle, sigAnswers := more
      status := if a = .fail then .checksumUnavailable else .ok
      completions := s.completions ++
        [if a = .fail then { status := .checksumUnavailable }
         else { status := .ok, qCsum := some (ck s.cfg s.ckData) }] } := by
  rw [step_busy hr (by simp [hp]), sequencer, hp, checksumAnswered, hs]
  cases a <;> rfl

/-! ### The statements -/

/-- Settles O24: both orders put the same four bytes side by side. -/
theorem checksumTruncatesSignature : Obligations.ChecksumTruncatesSignature := by
  unfold Obligations.ChecksumTruncatesSignature
  intro c f b0 b1 b2 b3 more hsig
  rw [ck_of_signature hsig]
  exact ⟨fun horder => by simp [horder], fun horder => by simp [horder]⟩

/-- Settles O25: frames with equal bytes are the same data, because both are in canonical form. -/
theorem equalBytesHaveEqualChecksums : Obligations.EqualBytesHaveEqualChecksums := by
  unfold Obligations.EqualBytesHaveEqualChecksums
  intro c f g hf hg hbytes
  obtain rfl := Frame.ext_of_bytes hf hg hbytes
  exact ⟨rfl, rfl⟩

/-- Settles O26: by counting, two of the byte strings of `FRAME_SIZE` bytes have one checksum. -/
theorem distinctFramesShareChecksum : Obligations.DistinctFramesShareChecksum := by
  unfold Obligations.DistinctFramesShareChecksum
  intro c hsize
  obtain ⟨v, w, hne, hck⟩ := Fintype.exists_ne_map_eq_of_card_lt (fun v => ck c (Frame.ofFn v))
    (card_bitVec_lt_card_bytes hsize)
  exact ⟨Frame.ofFn v, Frame.ofFn w, Frame.ofFn_wf v, Frame.ofFn_wf w, (Frame.ofFn_injective _).ne hne, hck⟩

/-- Settles O28: acceptance, then the signature primitive's answer on the operand in `ckData`. -/
theorem checksumCompletes : Obligations.ChecksumCompletes := by
  unfold Obligations.ChecksumCompletes
  intro s B rest a more b0 b1 b2 b3 tail hready hB hinbox hanswers hsig
  have ⟨hrunning, hidle, _⟩ := hready
  rw [run_succ (step_checksum hready hB hinbox), ← ck_of_signature hsig, hidle]
  exact run_succ (step_of_ckSig hrunning rfl hanswers)

/-- Settles O27: nothing but `PHASE` among the registers is written. -/
theorem checksumIsAccepted : Obligations.ChecksumIsAccepted := by
  unfold Obligations.ChecksumIsAccepted
  intro s B hidle
  exact exec_checksum hidle B

end Machine

end Sys2Proof
end

section
/-! The frame transfer family (42_frame_transfer.md): each transition of `READ_FRAME` and `WRITE_FRAME` as an exact next
state; then both operations as functions of the answers: the acceptance, the mismatching attempts by induction, and the
attempt that ends the operation. -/

namespace Sys2Proof.Machine

variable {s t : State}

/-! ### The transitions of a read, T4 to T9 -/

/-- The acceptance of `READ_FRAME`, T4: `IssueRead` sends, because the budget allows a first attempt (R8, R141). -/
theorem exec_readFrame (hp : s.phase = .idle) (he : s.extCall = none) (hb : 1 ≤ s.cfg.retryBudget) (f : BitVec 16) :
    exec (.readFrame f) s = .next { s with
      phase := .rdBus, fidx := f, attempt := 1, xcmd := Xr.pack s.cfg.opReadFrame f 0 0
      calls := s.calls ++ [.bus (Xr.pack s.cfg.opReadFrame f 0 0) s.fbuf .rd] } := by
  have hbudget : 0 ≠ s.cfg.retryBudget := by omega
  refine acceptTransfer_next.2 ⟨hp, he, ?_⟩
  rw [issueRead_eq, if_neg hbudget]
  rfl

/-- Settles O29: the budget of R8 lets the first attempt go out. -/
theorem readFrameIsAccepted : Obligations.ReadFrameIsAccepted := by
  unfold Obligations.ReadFrameIsAccepted
  intro s f hidle hfree hbudget
  exact exec_readFrame hidle hfree hbudget f

/-- The state after T4: `READ_FRAME f` is accepted, and `rest` is left in the inbox. -/
def readAccepted (f : BitVec 16) (rest : List Wire) (s : State) : State :=
  { s with
    inbox := rest, phase := .rdBus, fidx := f, attempt := 1, xcmd := Xr.pack s.cfg.opReadFrame f 0 0
    calls := s.calls ++ [.bus (Xr.pack s.cfg.opReadFrame f 0 0) s.fbuf .rd] }

/-- A ready unit takes a presented `READ_FRAME` in one step (T4). -/
theorem step_readFrame {f : BitVec 16} {rest : List Wire} (hr : Ready s)
    (hi : s.inbox = encode s.cfg (.readFrame f) :: rest) : step s = .next (readAccepted f rest s) := by
  have ⟨⟨hwf, _⟩, hp, he⟩ := hr
  rw [step_presented hr hi (decode_encode hwf rfl)]
  exact exec_readFrame (s := { s with inbox := rest }) hp he (budget_pos hwf) f

theorem step_of_rdBus (hr : Running s) (hp : s.phase = .rdBus) : step s = .next (readAnswered s) := by
  rw [step_busy hr (by simp [hp]), sequencer, hp]

theorem step_of_rdSig (hr : Running s) (hp : s.phase = .rdSig) : step s = .next (readChecked s) := by
  rw [step_busy hr (by simp [hp]), sequencer, hp]

/-- The state after T5: the bus has answered a read attempt with `a`, and `rest` is still to come. -/
def readReturned (a : BusAnswer) (rest : List BusAnswer) (s : State) : State :=
  { s with
    phase := .rdSig, busAnswers := rest, xrsp := a.response, fbuf := a.buffer, calls := s.calls ++ [.sig a.buffer] }

theorem readAnswered_eq {a : BusAnswer} {rest : List BusAnswer} (hb : s.busAnswers = a :: rest) :
    readAnswered s = readReturned a rest s := by
  rw [readAnswered, hb]
  rfl

/-- Settles O31: in `RD_BUS` the step and the outstanding `RDFRAME` are both `readAnswered`. -/
theorem readResponseIsTaken : Obligations.ReadResponseIsTaken := by
  unfold Obligations.ReadResponseIsTaken
  intro s a rest hr hp hb
  refine ⟨?_, fun f cs r hx => ?_⟩
  · rw [step_of_rdBus hr hp, readAnswered_eq hb]
    rfl
  · rw [exec, execRdframe, if_pos ⟨hp, hx⟩, readAnswered_eq hb]
    rfl

/-- Settles O32: a failing signature decides first, then the comparison of the checksums, then the budget or the
result. -/
theorem readAttemptIsJudged : Obligations.ReadAttemptIsJudged := by
  unfold Obligations.ReadAttemptIsJudged
  intro s a rest hr hp hs
  rw [step_of_rdSig hr hp, readChecked, hs]
  refine ⟨?_, ?_, ?_, ?_, ?_⟩ <;> rintro rfl
  · rfl
  all_goals dsimp only [checksumOf_ok]
  · intro hm ha
    rw [judgeRead, if_pos hm, issueRead_eq, if_pos ha]
    rfl
  · intro hm ha
    rw [judgeRead, if_pos hm, issueRead_eq, if_neg ha]
    rfl
  · intro hm hf
    rw [judgeRead, if_neg (not_not.2 hm), responseFails, if_pos hf]
    rfl
  · intro hm hf
    rw [judgeRead, if_neg (not_not.2 hm), responseFails, if_neg (Bool.eq_false_iff.1 hf)]
    rfl

/-! ### The transitions of a write, T10 to T15 -/

/-- The acceptance of `WRITE_FRAME`, T10 (R151). -/
theorem exec_writeFrame (hp : s.phase = .idle) (he : s.extCall = none) (f : BitVec 16) (B : Frame) :
    exec (.writeFrame f B) s = .next { s with
      phase := .wrSig, fidx := f, fbuf := B, attempt := 0, calls := s.calls ++ [.sig B] } :=
  acceptTransfer_next.2 ⟨hp, he, rfl⟩

/-- Settles O30: acceptance asks for the checksum and sends nothing. -/
theorem writeFrameIsAccepted : Obligations.WriteFrameIsAccepted := by
  unfold Obligations.WriteFrameIsAccepted
  intro s f B hidle hfree
  exact exec_writeFrame hidle hfree f B

/-- The state after T10: `WRITE_FRAME f, B` is accepted, and `rest` is left in the inbox. -/
def writeAccepted (f : BitVec 16) (B : Frame) (rest : List Wire) (s : State) : State :=
  { s with
    inbox := rest, phase := .wrSig, fidx := f, fbuf := B, attempt := 0, calls := s.calls ++ [.sig B] }

/-- A ready unit takes a presented `WRITE_FRAME` in one step (T10). -/
theorem step_writeFrame {f : BitVec 16} {B : Frame} {rest : List Wire} (hr : Ready s)
    (hB : Frame.wf s.cfg.frameSize B = true) (hi : s.inbox = encode s.cfg (.writeFrame f B) :: rest) :
    step s = .next (writeAccepted f B rest s) := by
  have ⟨⟨hwf, _⟩, hp, he⟩ := hr
  rw [step_presented hr hi (decode_encode hwf hB)]
  exact exec_writeFrame (s := { s with inbox := rest }) hp he f B

theorem step_of_wrSig (hr : Running s) (hp : s.phase = .wrSig) : step s = .next (writeChecked s) := by
  rw [step_busy hr (by simp [hp]), sequencer, hp]

theorem step_of_wrBus (hr : Running s) (hp : s.phase = .wrBus) : step s = .next (writeAnswered s) := by
  rw [step_busy hr (by simp [hp]), sequencer, hp]

/-- Settles O33: the checksum goes to `CSUM` first, so `IssueWrite` packs it. -/
theorem writeChecksumIsTaken : Obligations.WriteChecksumIsTaken := by
  unfold Obligations.WriteChecksumIsTaken
  intro s a rest hr hp hs
  rw [step_of_wrSig hr hp, writeChecked, hs]
  refine ⟨?_, ?_⟩ <;> rintro rfl
  · rfl
  · intro ha
    dsimp only [checksumOf_ok]
    rw [issueWrite_eq, if_neg ha]
    rfl

/-- Settles O34: in `WR_BUS` the step and the outstanding `WRFRAME` are both `writeAnswered`, which compares the echo
before it looks at the result. -/
theorem writeAttemptIsJudged : Obligations.WriteAttemptIsJudged := by
  unfold Obligations.WriteAttemptIsJudged
  intro s a rest hr hp hb
  refine ⟨fun f cs r hx => ?_, ?_⟩
  · rw [step_of_wrBus hr hp, exec, execWrframe, if_pos ⟨hp, hx⟩]
  rw [step_of_wrBus hr hp, writeAnswered, hb]
  dsimp only
  refine ⟨fun hm ha => ?_, fun hm ha => ?_, fun hm hf => ?_, fun hm hf => ?_⟩
  · rw [judgeWrite, if_pos hm, issueWrite_eq, if_pos ha]
    rfl
  · rw [judgeWrite, if_pos hm, issueWrite_eq, if_neg ha]
    rfl
  · rw [judgeWrite, if_neg (not_not.2 hm), responseFails, if_pos hf]
    rfl
  · rw [judgeWrite, if_neg (not_not.2 hm), responseFails, if_neg (Bool.eq_false_iff.1 hf)]
    rfl

/-! ### What a write in progress leaves alone -/

/-- `FBUF` is written only at reset, by a read's answer and when a write is accepted (R22, R156). -/
theorem Effect.fbuf_of_write (e : Effect s t) (hr : s.resetLine = false) (hp : s.phase = .wrSig ∨ s.phase = .wrBus) :
    t.fbuf = s.fbuf := by
  cases e with
  | reset hr' => cases hr.symm.trans hr'
  | readResponse _ _ _ hp' | acceptWrite _ _ _ _ _ hp' => simp [hp'] at hp
  | _ => rfl

/-- The retry loop of a write: `CSUM` stays, and the one call it can make is the next attempt, with the word of `FIDX`
and `CSUM` and the buffer `FBUF` (R152, R155). -/
theorem Effect.calls_of_wrBus (e : Effect s t) (hr : s.resetLine = false) (hp : s.phase = .wrBus) :
    t.csum = s.csum ∧
    (t.xcmd = s.xcmd ∧ t.calls = s.calls ∨
      t.xcmd = writeCommand s ∧ t.calls = s.calls ++ [.bus (writeCommand s) s.fbuf .wr]) := by
  cases e with
  | wait | writeExhausted | writeError | writeOk => exact ⟨rfl, .inl ⟨rfl, rfl⟩⟩
  | writeRetry => exact ⟨rfl, .inr ⟨rfl, rfl⟩⟩
  | reset hr' => cases hr.symm.trans hr'
  | sigFails _ _ hp' => simp [hp] at hp'
  | idle _ hp' | checksum _ _ hp' | readResponse _ _ _ hp' | readExhausted _ _ hp' | readRetry _ _ hp'
  | readError _ _ hp' | readOk _ _ hp' | writeUnsent _ _ hp' | writeSend _ _ hp' | otherAnswer _ _ _ _ hp'
  | otherCall _ _ _ _ _ _ hp' | otherWait _ _ _ _ hp' | codec _ _ _ _ hp' | acceptChecksum _ _ _ _ hp'
  | acceptRead _ _ _ _ hp' | acceptWrite _ _ _ _ _ hp' => cases hp.symm.trans hp'

/-- Settles O53: the next attempt sends `writeCommand`, which the invariant says `XCMD` already holds. -/
theorem writeAttemptsSendSameWordAndBuffer : Obligations.WriteAttemptsSendSameWordAndBuffer := by
  unfold Obligations.WriteAttemptsSendSameWordAndBuffer
  intro s t hinv ⟨_, hr⟩ hwrite hstep
  have e := step_effect hstep
  have hbusy : s.phase ≠ .idle := by rcases hwrite with hp | hp <;> simp [hp]
  refine ⟨e.fbuf_of_write hr hwrite, e.fidx_of_busy hr hbusy, fun hp => ?_⟩
  obtain ⟨-, hxcmd, -⟩ := (phaseInv_iff_of_wrBus hp).1 hinv.phase
  obtain ⟨hcsum, ⟨hx, hnone⟩ | ⟨hx, hbus⟩⟩ := e.calls_of_wrBus hr hp
  · exact ⟨hx, hcsum, [], by simp [hnone], by simp⟩
  · rw [← hxcmd] at hx hbus
    exact ⟨hx, hcsum, [.bus s.xcmd s.fbuf .wr], hbus, by simp⟩

/-! ### A read as a function of the answers -/

/-- Answers for a whole budget have a last one, because the budget is at least one attempt (R8). -/
theorem exists_append_singleton_of_budget {α : Type} {c : Config} {l : List α} (hc : c.wf = true)
    (hl : l.length = c.retryBudget) : ∃ init a, l = init ++ [a] := by
  have hpos : 0 < l.length := hl ▸ budget_pos hc
  exact ⟨l.dropLast, l.getLast (List.ne_nil_of_length_pos hpos), (List.dropLast_append_getLast _).symm⟩

/-- The state after a mismatching read attempt within the budget, T5 and T7: `b` was the bus's answer, and `more`
and `gs` are still to come. -/
def readRetried (b : BusAnswer) (more : List BusAnswer) (gs : List SigAnswer) (s : State) : State :=
  { s with
    phase := .rdBus, busAnswers := more, sigAnswers := gs, xrsp := b.response, fbuf := b.buffer
    csum := ck s.cfg b.buffer, attempt := s.attempt + 1, xcmd := readCommand s
    calls := s.calls ++ [.sig b.buffer] ++ [.bus (readCommand s) b.buffer .rd] }

/-- The calls that mismatching read attempts make from the bus's answers on: the signature call on what was returned,
and the next attempt, which presents it as its buffer (R160). -/
def readRetryCalls (w : Xr) (bad : List BusAnswer) : List Call :=
  bad.flatMap fun b => [.sig b.buffer, .bus w b.buffer .rd]

@[simp] theorem readRetryCalls_cons (w : Xr) (b : BusAnswer) (bad : List BusAnswer) :
    readRetryCalls w (b :: bad) = .sig b.buffer :: .bus w b.buffer .rd :: readRetryCalls w bad := rfl

@[simp] theorem filterMap_word_readRetryCalls (w : Xr) (bad : List BusAnswer) :
    (readRetryCalls w bad).filterMap Call.word = List.replicate bad.length w := by
  induction bad with
  | nil => rfl
  | cons b bad ih => simp [List.filterMap_cons, Call.word, ih, List.replicate_succ]

@[simp] theorem countP_isSig_readRetryCalls (w : Xr) (bad : List BusAnswer) :
    (readRetryCalls w bad).countP Call.isSig = bad.length := by
  induction bad with
  | nil => rfl
  | cons b bad ih => simp [List.countP_cons, Call.isSig, ih]

/-- One mismatching read attempt within the budget: T5, then T7. -/
theorem run_readRetry {b : BusAnswer} {more : List BusAnswer} {gs : List SigAnswer} (hr : Running s)
    (hp : s.phase = .rdBus) (hb : s.busAnswers = b :: more) (hs : s.sigAnswers = .ok :: gs)
    (hm : ck s.cfg b.buffer ≠ Xr.checksum b.response) (ha : s.attempt ≠ s.cfg.retryBudget) :
    run 2 s = .next (readRetried b more gs s) := by
  obtain ⟨hstep, -⟩ := readResponseIsTaken s b more hr hp hb
  obtain ⟨-, -, hretry, -, -⟩ := readAttemptIsJudged (readReturned b more s) .ok gs hr rfl hs
  rw [run_succ hstep]
  exact run_succ (hretry rfl hm ha)

/-- Mismatching read attempts within the budget, one after another: only registers of the operation and the history of
calls change. -/
theorem run_readRetries {bad more : List BusAnswer} {gs : List SigAnswer} (hr : Running s) (hp : s.phase = .rdBus)
    (hbad : ∀ b ∈ bad, ck s.cfg b.buffer ≠ Xr.checksum b.response)
    (ha : s.attempt + bad.length ≤ s.cfg.retryBudget) (hb : s.busAnswers = bad ++ more)
    (hs : s.sigAnswers = List.replicate bad.length .ok ++ gs) :
    ∃ x B c w, run (2 * bad.length) s = .next { s with
      phase := .rdBus, busAnswers := more, sigAnswers := gs, attempt := s.attempt + bad.length
      xrsp := x, fbuf := B, csum := c, xcmd := w, calls := s.calls ++ readRetryCalls (readCommand s) bad } := by
  induction bad generalizing s with
  | nil =>
    refine ⟨s.xrsp, s.fbuf, s.csum, s.xcmd, ?_⟩
    have hb' : s.busAnswers = more := hb
    have hs' : s.sigAnswers = gs := hs
    simp [readRetryCalls, ← hp, ← hb', ← hs']
  | cons b bad ih =>
    obtain ⟨hm, hbad⟩ := List.forall_mem_cons.1 hbad
    rw [List.length_cons] at ha hs
    have hretry : run 2 s = .next (readRetried b (bad ++ more) (List.replicate bad.length .ok ++ gs) s) :=
      run_readRetry hr hp hb hs hm (by omega)
    obtain ⟨x, B, c, w, hrest⟩ := ih (s := readRetried b (bad ++ more) (List.replicate bad.length .ok ++ gs) s)
      hr rfl hbad (by dsimp only [readRetried]; omega) rfl rfl
    refine ⟨x, B, c, w, ?_⟩
    rw [List.length_cons, Nat.mul_succ, Nat.add_comm (2 * bad.length), run_add hretry, hrest]
    simp [readRetried, readCommand, Nat.add_right_comm, Nat.add_assoc]

/-- The completion of a read whose last attempt the bus answered with `a` and the signature primitive with `g`: the
tests in the order of R142; a mismatch ends a read only at the end of the budget (R161). -/
def readCompletion (c : Config) (a : BusAnswer) (g : SigAnswer) : Completion :=
  if g = .fail then { status := .checksumUnavailable }
  else if ck c a.buffer ≠ Xr.checksum a.response then { status := .checksumExhausted }
  else if resultFail c (asI8 (Xr.result a.response)) = true then { status := .deviceError }
  else { status := .ok, qData := some a.buffer }

theorem readCompletion_of_mismatch {c : Config} {a : BusAnswer} (hm : ck c a.buffer ≠ Xr.checksum a.response) :
    readCompletion c a .ok = { status := .checksumExhausted } := by
  simp [readCompletion, hm]

theorem readCompletion_of_decided {c : Config} {a : BusAnswer} {g : SigAnswer}
    (hd : g = .fail ∨ ck c a.buffer = Xr.checksum a.response) :
    readCompletion c a g =
      if g = .fail then { status := .checksumUnavailable }
      else if resultFail c (asI8 (Xr.result a.response)) = true then { status := .deviceError }
      else { status := .ok, qData := some a.buffer } := by
  rcases hd with rfl | hm
  · rfl
  · simp [readCompletion, hm]

/-- The last attempt of a read, which a failing signature, matching checksums or the end of the budget makes the last:
T5, then T6 to T9. -/
theorem run_readLast {a : BusAnswer} {more : List BusAnswer} {g : SigAnswer} {gs : List SigAnswer} (hr : Running s)
    (hp : s.phase = .rdBus) (hb : s.busAnswers = a :: more) (hs : s.sigAnswers = g :: gs)
    (hlast : (g = .fail ∨ ck s.cfg a.buffer = Xr.checksum a.response) ∨ s.attempt = s.cfg.retryBudget) :
    ∃ c, run 2 s = .next { s with
      phase := .idle, busAnswers := more, sigAnswers := gs, xrsp := a.response, fbuf := a.buffer, csum := c
      status := (readCompletion s.cfg a g).status, calls := s.calls ++ [.sig a.buffer]
      completions := s.completions ++ [readCompletion s.cfg a g] } := by
  obtain ⟨hstep, -⟩ := readResponseIsTaken s a more hr hp hb
  obtain ⟨hfail, hexhausted, -, herror, hok⟩ := readAttemptIsJudged (readReturned a more s) g gs hr rfl hs
  rw [run_succ hstep]
  cases g with
  | fail => exact ⟨s.csum, run_succ (hfail rfl)⟩
  | ok =>
    refine ⟨ck s.cfg a.buffer, ?_⟩
    by_cases hm : ck s.cfg a.buffer = Xr.checksum a.response
    · rw [readCompletion_of_decided (.inr hm)]
      cases hf : resultFail s.cfg (asI8 (Xr.result a.response)) with
      | true => exact run_succ (herror rfl hm hf)
      | false => exact run_succ (hok rfl hm hf)
    · rw [readCompletion_of_mismatch hm]
      have ha : s.attempt = s.cfg.retryBudget := by simpa [hm] using hlast
      exact run_succ (hexhausted rfl hm ha)

/-- The calls of a whole read with the command word `w`, from a state with the buffer `B` on: `bad` are the answers of
the attempts before the last, and `a` is the last one's (R161). -/
def readCalls (w : Xr) (B : Frame) (bad : List BusAnswer) (a : BusAnswer) : List Call :=
  .bus w B .rd :: (readRetryCalls w bad ++ [.sig a.buffer])

theorem filterMap_word_readCalls (w : Xr) (B : Frame) (bad : List BusAnswer) (a : BusAnswer) :
    (readCalls w B bad a).filterMap Call.word = List.replicate (bad.length + 1) w := by
  simp [readCalls, Call.word, List.replicate_succ]

theorem countP_isSig_readCalls (w : Xr) (B : Frame) (bad : List BusAnswer) (a : BusAnswer) :
    (readCalls w B bad a).countP Call.isSig = bad.length + 1 := by
  simp [readCalls, Call.isSig]

/-- The whole of `READ_FRAME` (R161): the last attempt is the first within the budget whose signature fails or whose
checksum matches, or the budget's last. The state that it ends in, but for what is left in `CSUM` and `XCMD`. -/
theorem run_readFrame {f : BitVec 16} {rest : List Wire} {bad more : List BusAnswer} {a : BusAnswer}
    {g : SigAnswer} {gs : List SigAnswer} (hr : Ready s) (hi : s.inbox = encode s.cfg (.readFrame f) :: rest)
    (hbad : ∀ b ∈ bad, ck s.cfg b.buffer ≠ Xr.checksum b.response) (hlen : bad.length < s.cfg.retryBudget)
    (hlast : (g = .fail ∨ ck s.cfg a.buffer = Xr.checksum a.response) ∨ bad.length + 1 = s.cfg.retryBudget)
    (hb : s.busAnswers = bad ++ a :: more) (hs : s.sigAnswers = List.replicate bad.length .ok ++ g :: gs) :
    ∃ c w, run (1 + 2 * (bad.length + 1)) s = .next { s with
      phase := .idle, inbox := rest, busAnswers := more, sigAnswers := gs, fidx := f, attempt := bad.length + 1
      fbuf := a.buffer, xrsp := a.response, csum := c, xcmd := w, status := (readCompletion s.cfg a g).status
      calls := s.calls ++ readCalls (Xr.pack s.cfg.opReadFrame f 0 0) s.fbuf bad a
      completions := s.completions ++ [readCompletion s.cfg a g] } := by
  have ⟨hrun, _, _⟩ := hr
  obtain ⟨x, B, c, w, hretries⟩ :=
    run_readRetries (s := readAccepted f rest s) hrun rfl hbad (by dsimp only [readAccepted]; omega) hb hs
  obtain ⟨c', hend⟩ := run_readLast (s := { readAccepted f rest s with
      busAnswers := a :: more, sigAnswers := g :: gs, attempt := 1 + bad.length, xrsp := x, fbuf := B, csum := c
      xcmd := w
      calls := (readAccepted f rest s).calls ++ readRetryCalls (Xr.pack s.cfg.opReadFrame f 0 0) bad })
    hrun rfl rfl rfl (Nat.add_comm 1 _ ▸ hlast)
  refine ⟨c', w, ?_⟩
  rw [Nat.add_comm 1, run_succ (step_readFrame hr hi), Nat.mul_succ]
  refine (run_add hretries).trans (hend.trans ?_)
  simp [readAccepted, readCalls, Nat.add_comm]

/-- What R161 counts of a whole read: the completion, the command words, the signature calls and the answers left. -/
theorem readFrame_outcome {f : BitVec 16} {rest : List Wire} {bad more : List BusAnswer} {a : BusAnswer}
    {g : SigAnswer} {gs : List SigAnswer} (hr : Ready s) (hi : s.inbox = encode s.cfg (.readFrame f) :: rest)
    (hbad : ∀ b ∈ bad, ck s.cfg b.buffer ≠ Xr.checksum b.response) (hlen : bad.length < s.cfg.retryBudget)
    (hlast : (g = .fail ∨ ck s.cfg a.buffer = Xr.checksum a.response) ∨ bad.length + 1 = s.cfg.retryBudget)
    (hb : s.busAnswers = bad ++ a :: more) (hs : s.sigAnswers = List.replicate bad.length .ok ++ g :: gs) :
    ∃ t, run (1 + 2 * (bad.length + 1)) s = .next t ∧ t.phase = .idle ∧
      t.completions = s.completions ++ [readCompletion s.cfg a g] ∧
      commandWords t = commandWords s ++ List.replicate (bad.length + 1) (Xr.pack s.cfg.opReadFrame f 0 0) ∧
      sigCalls t = sigCalls s + (bad.length + 1) ∧ t.busAnswers = more ∧ t.sigAnswers = gs ∧ t.inbox = rest := by
  obtain ⟨c, w, hrun⟩ := run_readFrame hr hi hbad hlen hlast hb hs
  refine ⟨_, hrun, rfl, rfl, ?_, ?_, rfl, rfl, rfl⟩
  · exact List.filterMap_append.trans (congrArg _ (filterMap_word_readCalls _ _ _ _))
  · exact List.countP_append.trans (congrArg _ (countP_isSig_readCalls _ _ _ _))

/-- Settles O35: the last attempt is the deciding one, or the last of `bad`, which uses up the budget. -/
theorem readFrameAsFunctionOfAnswers : Obligations.ReadFrameAsFunctionOfAnswers := by
  unfold Obligations.ReadFrameAsFunctionOfAnswers
  intro s f rest bad more gs hready hinbox hbad
  refine ⟨fun a g hlen hdecided hbus hsig => ?_, fun hlen hbus hsig => ?_⟩
  · rw [← readCompletion_of_decided hdecided]
    exact readFrame_outcome hready hinbox hbad hlen (.inl hdecided) hbus hsig
  · have ⟨⟨hwf, _⟩, _⟩ := hready
    obtain ⟨init, b, rfl⟩ := exists_append_singleton_of_budget hwf hlen
    rw [List.length_append, List.length_singleton] at hlen hsig
    rw [List.replicate_succ', List.append_assoc] at hsig
    rw [List.append_assoc] at hbus
    have hb : ck s.cfg b.buffer ≠ Xr.checksum b.response := hbad b (by simp)
    have hinit : ∀ b' ∈ init, ck s.cfg b'.buffer ≠ Xr.checksum b'.response := fun b' h => hbad b' (by simp [h])
    rw [← hlen, ← readCompletion_of_mismatch hb]
    exact readFrame_outcome hready hinbox hinit (by omega) (.inr hlen) hbus hsig

/-! ### A write as a function of the answers -/

/-- The state after a mismatching write attempt within the budget, T13: `b` was the bus's answer, and `more` is still to
come. -/
def writeRetried (b : BusAnswer) (more : List BusAnswer) (s : State) : State :=
  { s with
    phase := .wrBus, busAnswers := more, xrsp := b.response, attempt := s.attempt + 1, xcmd := writeCommand s
    calls := s.calls ++ [.bus (writeCommand s) s.fbuf .wr] }

/-- Mismatching write attempts within the budget, one after another: every one sends the same word and buffer. -/
theorem run_writeRetries {bad more : List BusAnswer} (hr : Running s) (hp : s.phase = .wrBus)
    (hbad : ∀ b ∈ bad, Xr.checksum b.response ≠ s.csum) (ha : s.attempt + bad.length ≤ s.cfg.retryBudget)
    (hb : s.busAnswers = bad ++ more) :
    ∃ x w, run bad.length s = .next { s with
      phase := .wrBus, busAnswers := more, attempt := s.attempt + bad.length, xrsp := x, xcmd := w
      calls := s.calls ++ List.replicate bad.length (.bus (writeCommand s) s.fbuf .wr) } := by
  induction bad generalizing s with
  | nil =>
    refine ⟨s.xrsp, s.xcmd, ?_⟩
    have hb' : s.busAnswers = more := hb
    simp [← hp, ← hb']
  | cons b bad ih =>
    obtain ⟨hm, hbad⟩ := List.forall_mem_cons.1 hbad
    rw [List.length_cons] at ha
    obtain ⟨-, -, hretry, -, -⟩ := writeAttemptIsJudged s b (bad ++ more) hr hp hb
    have hstep : step s = .next (writeRetried b (bad ++ more) s) := hretry hm (by omega)
    obtain ⟨x, w, hrest⟩ := ih (s := writeRetried b (bad ++ more) s) hr rfl hbad
      (by dsimp only [writeRetried]; omega) rfl
    refine ⟨x, w, ?_⟩
    rw [List.length_cons, run_succ hstep, hrest]
    simp [writeRetried, writeCommand, List.replicate_succ, Nat.add_right_comm, Nat.add_assoc]

/-- The completion of a write of a frame with the checksum `cs` whose last attempt the bus answered with `a`: the tests
in the order of R154; a differing echo ends a write only at the end of the budget (R162). -/
def writeCompletion (c : Config) (cs : BitVec 32) (a : BusAnswer) : Completion :=
  if Xr.checksum a.response ≠ cs then { status := .checksumExhausted }
  else if resultFail c (asI8 (Xr.result a.response)) = true then { status := .deviceError }
  else { status := .ok }

theorem writeCompletion_of_mismatch {c : Config} {cs : BitVec 32} {a : BusAnswer} (hm : Xr.checksum a.response ≠ cs) :
    writeCompletion c cs a = { status := .checksumExhausted } :=
  if_pos hm

theorem writeCompletion_of_match {c : Config} {cs : BitVec 32} {a : BusAnswer} (hm : Xr.checksum a.response = cs) :
    writeCompletion c cs a =
      if resultFail c (asI8 (Xr.result a.response)) = true then { status := .deviceError } else { status := .ok } :=
  if_neg (not_not.2 hm)

/-- The last attempt of a write, which an equal echo or the end of the budget makes the last: T13 to T15. -/
theorem step_writeLast {a : BusAnswer} {more : List BusAnswer} (hr : Running s) (hp : s.phase = .wrBus)
    (hb : s.busAnswers = a :: more) (hlast : Xr.checksum a.response = s.csum ∨ s.attempt = s.cfg.retryBudget) :
    step s = .next { s with
      phase := .idle, busAnswers := more, xrsp := a.response, status := (writeCompletion s.cfg s.csum a).status
      completions := s.completions ++ [writeCompletion s.cfg s.csum a] } := by
  obtain ⟨-, hexhausted, -, herror, hok⟩ := writeAttemptIsJudged s a more hr hp hb
  by_cases hm : Xr.checksum a.response = s.csum
  · rw [writeCompletion_of_match hm]
    cases hf : resultFail s.cfg (asI8 (Xr.result a.response)) with
    | true => exact herror hm hf
    | false => exact hok hm hf
  · rw [writeCompletion_of_mismatch hm]
    exact hexhausted hm (hlast.resolve_left hm)

/-- The state after T10 and T12: `WRITE_FRAME f, B` is accepted, its checksum is known, and the first attempt is sent;
`rest` is left in the inbox and `gs` of the signature primitive's answers. -/
def writeSent (f : BitVec 16) (B : Frame) (rest : List Wire) (gs : List SigAnswer) (s : State) : State :=
  { s with
    inbox := rest, sigAnswers := gs, phase := .wrBus, fidx := f, fbuf := B, csum := ck s.cfg B, attempt := 1
    xcmd := Xr.pack s.cfg.opWriteFrame f (ck s.cfg B) 0
    calls := s.calls ++ [.sig B] ++ [.bus (Xr.pack s.cfg.opWriteFrame f (ck s.cfg B) 0) B .wr] }

/-- A write up to its first attempt: T10, then T12. -/
theorem run_writeSent {f : BitVec 16} {B : Frame} {rest : List Wire} {gs : List SigAnswer} (hr : Ready s)
    (hB : Frame.wf s.cfg.frameSize B = true) (hi : s.inbox = encode s.cfg (.writeFrame f B) :: rest)
    (hs : s.sigAnswers = .ok :: gs) : run 2 s = .next (writeSent f B rest gs s) := by
  have ⟨⟨hwf, hline⟩, _⟩ := hr
  have hbudget := budget_pos hwf
  obtain ⟨-, hsend⟩ := writeChecksumIsTaken (writeAccepted f B rest s) .ok gs ⟨hwf, hline⟩ rfl hs
  rw [run_succ (step_writeFrame hr hB hi)]
  exact run_succ (hsend rfl (by dsimp only [writeAccepted]; omega))

/-- The whole of `WRITE_FRAME` when its signature does not fail (R162): the last attempt is the first within the budget
whose echo equals the checksum sent, or the budget's last. The state that it ends in, but for what is left in
`XCMD`. -/
theorem run_writeFrame {f : BitVec 16} {B : Frame} {rest : List Wire} {bad more : List BusAnswer} {a : BusAnswer}
    {gs : List SigAnswer} (hr : Ready s) (hB : Frame.wf s.cfg.frameSize B = true)
    (hi : s.inbox = encode s.cfg (.writeFrame f B) :: rest) (hs : s.sigAnswers = .ok :: gs)
    (hbad : ∀ b ∈ bad, Xr.checksum b.response ≠ ck s.cfg B) (hlen : bad.length < s.cfg.retryBudget)
    (hlast : Xr.checksum a.response = ck s.cfg B ∨ bad.length + 1 = s.cfg.retryBudget)
    (hb : s.busAnswers = bad ++ a :: more) :
    ∃ w, run (2 + (bad.length + 1)) s = .next { s with
      phase := .idle, inbox := rest, busAnswers := more, sigAnswers := gs, fidx := f, attempt := bad.length + 1
      fbuf := B, xrsp := a.response, csum := ck s.cfg B, xcmd := w
      status := (writeCompletion s.cfg (ck s.cfg B) a).status
      calls := s.calls ++ .sig B ::
        List.replicate (bad.length + 1) (.bus (Xr.pack s.cfg.opWriteFrame f (ck s.cfg B) 0) B .wr)
      completions := s.completions ++ [writeCompletion s.cfg (ck s.cfg B) a] } := by
  have ⟨hrun, _, _⟩ := hr
  obtain ⟨x, w, hretries⟩ :=
    run_writeRetries (s := writeSent f B rest gs s) hrun rfl hbad (by dsimp only [writeSent]; omega) hb
  have hend := step_writeLast (s := { writeSent f B rest gs s with
      busAnswers := a :: more, attempt := 1 + bad.length, xrsp := x, xcmd := w
      calls := (writeSent f B rest gs s).calls ++
        List.replicate bad.length (.bus (Xr.pack s.cfg.opWriteFrame f (ck s.cfg B) 0) B .wr) })
    hrun rfl rfl (Nat.add_comm 1 _ ▸ hlast)
  refine ⟨w, ?_⟩
  rw [run_add (run_writeSent hr hB hi hs)]
  refine (run_add hretries).trans ((run_succ hend).trans ?_)
  simp [writeSent, Nat.add_comm, List.replicate_succ]

/-- Settles O36: the one signature call comes first; then the last attempt is the deciding one, or the last of `bad`,
which uses up the budget. -/
theorem writeFrameAsFunctionOfAnswers : Obligations.WriteFrameAsFunctionOfAnswers := by
  unfold Obligations.WriteFrameAsFunctionOfAnswers
  intro s f B rest bad more g gs hready hB hinbox hsig hbad
  refine ⟨?_, fun a => ?_, ?_⟩ <;> rintro rfl
  · have ⟨hrun, _, _⟩ := hready
    obtain ⟨hfail, -⟩ := writeChecksumIsTaken (writeAccepted f B rest s) .fail gs hrun rfl hsig
    rw [run_succ (step_writeFrame hready hB hinbox)]
    exact ⟨_, run_succ (hfail rfl), rfl, rfl, rfl, rfl, rfl, rfl⟩
  · intro hlen hdecided hbus
    obtain ⟨w, hrun⟩ := run_writeFrame hready hB hinbox hsig hbad hlen (.inl hdecided) hbus
    rw [← writeCompletion_of_match hdecided]
    exact ⟨_, hrun, rfl, rfl, rfl, rfl, rfl, rfl⟩
  · intro hlen hbus
    have ⟨⟨hwf, _⟩, _⟩ := hready
    obtain ⟨init, b, rfl⟩ := exists_append_singleton_of_budget hwf hlen
    rw [List.length_append, List.length_singleton] at hlen
    rw [List.append_assoc] at hbus
    have hb : Xr.checksum b.response ≠ ck s.cfg B := hbad b (by simp)
    have hinit : ∀ b' ∈ init, Xr.checksum b'.response ≠ ck s.cfg B := fun b' h => hbad b' (by simp [h])
    obtain ⟨w, hrun⟩ := run_writeFrame hready hB hinbox hsig hinit (by omega) (.inr hlen) hbus
    rw [← hlen, ← writeCompletion_of_mismatch hb]
    exact ⟨_, hrun, rfl, rfl, rfl, rfl, rfl, rfl⟩

/-! ### Every request completes -/

/-- Where the answers reach to the end of the budget there is a last attempt: the first that decides, by a failing
signature or by `decides` of the bus's answer, or the budget's last (R161 to R163). -/
theorem exists_last_attempt (decides : BusAnswer → Prop) {n : Nat} {as : List BusAnswer} {gs : List SigAnswer}
    (hn : 1 ≤ n) (has : n ≤ as.length) (hgs : n ≤ gs.length) :
    ∃ bad a more g gs', bad.length < n ∧ (∀ b ∈ bad, ¬ decides b) ∧
      ((g = .fail ∨ decides a) ∨ bad.length + 1 = n) ∧
      as = bad ++ a :: more ∧ gs = List.replicate bad.length .ok ++ g :: gs' := by
  induction n, hn using Nat.le_induction generalizing as gs with
  | base =>
    obtain ⟨a, more, rfl⟩ := List.exists_cons_of_length_pos has
    obtain ⟨g, gs', rfl⟩ := List.exists_cons_of_length_pos hgs
    exact ⟨[], a, more, g, gs', Nat.one_pos, by simp, .inr rfl, rfl, rfl⟩
  | succ n hn ih =>
    obtain ⟨a, as, rfl⟩ := List.exists_cons_of_length_pos (Nat.zero_lt_of_lt has)
    obtain ⟨g, gs, rfl⟩ := List.exists_cons_of_length_pos (Nat.zero_lt_of_lt hgs)
    by_cases hd : g = .fail ∨ decides a
    · exact ⟨[], a, as, g, gs, Nat.succ_pos n, by simp, .inl hd, rfl, rfl⟩
    · obtain ⟨hg, ha⟩ := not_or.1 hd
      obtain ⟨bad, a', more, g', gs', hlen, hbad, hlast, rfl, rfl⟩ :=
        ih (Nat.le_of_succ_le_succ has) (Nat.le_of_succ_le_succ hgs)
      have hok : g = .ok := by cases g with
        | fail => exact absurd rfl hg
        | ok => rfl
      exact ⟨a :: bad, a', more, g', gs', Nat.succ_lt_succ hlen, List.forall_mem_cons.2 ⟨ha, hbad⟩,
        hlast.imp_right (congrArg Nat.succ), rfl, hok ▸ rfl⟩

/-- Within `n` steps the unit is `IDLE` again, with `rest` in the inbox and exactly one completion more (R163). -/
def CompletesWithin (n : Nat) (rest : List Wire) (s : State) : Prop :=
  ∃ (k : Nat) (t : State) (c : Completion), k ≤ n ∧ run k s = .next t ∧
    t.phase = .idle ∧ t.inbox = rest ∧ t.completions = s.completions ++ [c]

theorem CompletesWithin.mono {m n : Nat} {rest : List Wire} (h : CompletesWithin m rest s) (hmn : m ≤ n) :
    CompletesWithin n rest s := by
  obtain ⟨k, t, c, hk, ht⟩ := h
  exact ⟨k, t, c, hk.trans hmn, ht⟩

/-- A codec operation completes at once. -/
theorem completesWithin_of_codec {i : Instr} {k : Completion} {rest : List Wire} (hr : Ready s)
    (hi : s.inbox = encode s.cfg i :: rest) (hw : WellFormed s.cfg i = true)
    (hexec : ∀ u, exec i u = accept u (complete k u)) : CompletesWithin 1 rest s := by
  have ⟨_, hp, _⟩ := hr
  exact ⟨1, _, k, Nat.le_refl 1, run_succ (step_codec hr hi hw hexec), hp, rfl, rfl⟩

/-- `CHECKSUM` completes after its one signature call. -/
theorem completesWithin_of_checksum {B : Frame} {rest : List Wire} (hr : Ready s)
    (hi : s.inbox = encode s.cfg (.checksum B) :: rest) (hB : Frame.wf s.cfg.frameSize B = true)
    (hs : 0 < s.sigAnswers.length) : CompletesWithin 2 rest s := by
  have ⟨hrun, _, _⟩ := hr
  obtain ⟨a, more, hs⟩ := List.exists_cons_of_length_pos hs
  exact ⟨2, _, _, Nat.le_refl 2, (run_succ (step_checksum hr hB hi)).trans (run_succ (step_of_ckSig hrun rfl hs)),
    rfl, rfl, rfl⟩

/-- `READ_FRAME` completes after at most `RETRY_BUDGET` attempts of two steps each. -/
theorem completesWithin_of_readFrame {f : BitVec 16} {rest : List Wire} (hr : Ready s)
    (hi : s.inbox = encode s.cfg (.readFrame f) :: rest) (hb : s.cfg.retryBudget ≤ s.busAnswers.length)
    (hs : s.cfg.retryBudget ≤ s.sigAnswers.length) : CompletesWithin (1 + 2 * s.cfg.retryBudget) rest s := by
  have ⟨⟨hwf, _⟩, _, _⟩ := hr
  obtain ⟨bad, a, more, g, gs, hlen, hbad, hlast, hbus, hsig⟩ :=
    exists_last_attempt (fun a => ck s.cfg a.buffer = Xr.checksum a.response) (budget_pos hwf) hb hs
  obtain ⟨c, w, hrun⟩ := run_readFrame hr hi hbad hlen hlast hbus hsig
  exact ⟨_, _, _, by omega, hrun, rfl, rfl, rfl⟩

/-- `WRITE_FRAME` completes after one signature call and at most `RETRY_BUDGET` attempts of one step each. -/
theorem completesWithin_of_writeFrame {f : BitVec 16} {B : Frame} {rest : List Wire} (hr : Ready s)
    (hi : s.inbox = encode s.cfg (.writeFrame f B) :: rest) (hB : Frame.wf s.cfg.frameSize B = true)
    (hb : s.cfg.retryBudget ≤ s.busAnswers.length) (hs : 0 < s.sigAnswers.length) :
    CompletesWithin (2 + s.cfg.retryBudget) rest s := by
  have ⟨⟨hwf, _⟩, _, _⟩ := hr
  obtain ⟨g, gs, hs⟩ := List.exists_cons_of_length_pos hs
  cases g with
  | fail =>
    obtain ⟨hfail, -, -⟩ := writeFrameAsFunctionOfAnswers s f B rest [] [] .fail gs hr hB hi hs (by simp)
    obtain ⟨t, hrun, hp, hc, -, -, -, hrest⟩ := hfail rfl
    exact ⟨2, t, _, by omega, hrun, hp, hrest, hc⟩
  | ok =>
    -- a write's attempts make no signature call, so none of them is ended by a failing one
    obtain ⟨bad, a, more, g, gs', hlen, hbad, hlast, hbus, hok⟩ :=
      exists_last_attempt (fun a => Xr.checksum a.response = ck s.cfg B) (budget_pos hwf) hb
        (List.length_replicate (a := SigAnswer.ok)).ge
    have hmem : g ∈ List.replicate s.cfg.retryBudget SigAnswer.ok := by
      rw [hok]
      simp
    obtain rfl := List.eq_of_mem_replicate hmem
    have hlast' : Xr.checksum a.response = ck s.cfg B ∨ bad.length + 1 = s.cfg.retryBudget := by simpa using hlast
    obtain ⟨w, hrun⟩ := run_writeFrame hr hB hi hs hbad hlen hlast' hbus
    exact ⟨_, _, _, by omega, hrun, rfl, rfl, rfl⟩

/-- Settles O37: each kind of request completes within its own bound. -/
theorem answeredOperationsTerminate : Obligations.AnsweredOperationsTerminate := by
  unfold Obligations.AnsweredOperationsTerminate
  intro s i rest hready hrequest hwf hinbox hbus hsig
  have ⟨⟨hcfg, _⟩, _, _⟩ := hready
  have hbudget := budget_pos hcfg
  suffices h : CompletesWithin (2 + 2 * s.cfg.retryBudget) rest s from h
  cases i with
  | init | zeroBlock | rdframe | wrframe | powoff => cases hrequest
  | encode | decodeResult | decodeChecksum | decodeOp | decodeFrame =>
    exact (completesWithin_of_codec hready hinbox hwf fun _ => rfl).mono (by omega)
  | checksum B => exact (completesWithin_of_checksum hready hinbox hwf (by omega)).mono (by omega)
  | readFrame f => exact (completesWithin_of_readFrame hready hinbox hbus hsig).mono (by omega)
  | writeFrame f B => exact (completesWithin_of_writeFrame hready hinbox hwf hbus (by omega)).mono (by omega)

end Sys2Proof.Machine
end

section
/-! The bus command family (43_bus_commands.md): the word a unit has outstanding is executed as the bus's answer to it,
any other word is another master's call that touches no register, only two fields of a response word matter, and over an
eventually faithful bus a frame that was written reads back. -/

namespace Sys2Proof.Machine

variable {s : State}

/-! ### The unit's own outstanding word -/

/-- Executing the outstanding word of a read attempt is taking the bus's answer to it (R190, T5). -/
theorem exec_rdframe_outstanding {f : BitVec 16} {cs : BitVec 32} {r : BitVec 8} (hp : s.phase = .rdBus)
    (hx : s.xcmd = Xr.pack s.cfg.opReadFrame f cs r) : exec (.rdframe f cs r) s = .next (readAnswered s) :=
  if_pos ⟨hp, hx⟩

/-- Executing the outstanding word of a write attempt is taking the bus's answer to it (R191, T13 to T15). -/
theorem exec_wrframe_outstanding {f : BitVec 16} {cs : BitVec 32} {r : BitVec 8} (hp : s.phase = .wrBus)
    (hx : s.xcmd = Xr.pack s.cfg.opWriteFrame f cs r) : exec (.wrframe f cs r) s = .next (writeAnswered s) :=
  if_pos ⟨hp, hx⟩

/-- Settles O11: the invariant says that `XCMD` holds the attempt's word, which is the encoding of the instruction. -/
theorem outstandingCommandWordIsExecuted : Obligations.OutstandingCommandWordIsExecuted := by
  unfold Obligations.OutstandingCommandWordIsExecuted
  refine fun s hinv hr => ⟨fun hp => ?_, fun hp => ?_⟩
  · obtain ⟨-, hx⟩ := (phaseInv_iff_of_read (.inl hp)).1 hinv.phase
    refine ⟨hx ▸ decode_encode (i := .rdframe s.fidx 0 0) hinv.cfg rfl, ?_⟩
    rw [step_of_rdBus hr hp, exec_rdframe_outstanding hp hx]
  · obtain ⟨-, hx, -⟩ := (phaseInv_iff_of_wrBus hp).1 hinv.phase
    refine ⟨hx ▸ decode_encode (i := .wrframe s.fidx s.csum 0) hinv.cfg rfl, ?_⟩
    rw [step_of_wrBus hr hp, exec_wrframe_outstanding hp hx]

/-! ### Another master's call -/

/-- In an idle unit every command word, whichever row it belongs to, is another master's transaction (R189). -/
theorem exec_command_of_idle {i : Instr} {w : Xr} (hp : s.phase = .idle) (hi : encode s.cfg i = .command w) :
    exec i s = otherTransaction w s := by
  cases i with
  | init | zeroBlock | powoff =>
    cases hi
    rfl
  | rdframe | wrframe =>
    cases hi
    exact if_neg (by simp [hp])
  | encode | decodeResult | decodeChecksum | decodeOp | decodeFrame | checksum | readFrame | writeFrame => cases hi

/-- Settles O54: each of the five instructions is encoded by its own command word, and the bus answers the call. -/
theorem otherMastersCallLeavesUnitAlone : Obligations.OtherMastersCallLeavesUnitAlone := by
  unfold Obligations.OtherMastersCallLeavesUnitAlone
  intro s a rest k k2 r hp he hb p hmem
  have hword : encode s.cfg p.1 = .command (Xr.pack p.2 k k2 r) := by
    revert p
    simp [encode]
  rw [exec_command_of_idle hp hword]
  exact otherTransaction_answered hp he hb _

/-- A ready unit that is presented a command word lets the other master make its call, whether or not the word is an
instruction (R96, R189). -/
theorem step_command {w : Xr} {rest : List Wire} (hr : Ready s) (hi : s.inbox = .command w :: rest) :
    step s = otherTransaction w { s with inbox := rest } := by
  have ⟨_, hp, _⟩ := hr
  cases hd : decode s.cfg (.command w) with
  | ok i =>
    have hi' : encode s.cfg i = .command w := encodeAfterDecodeCommandIsIdentity s.cfg w i hd
    rw [step_presented hr hi hd]
    exact exec_command_of_idle (s := { s with inbox := rest }) hp hi'
  | error e => exact step_of_decode_error hr hi hd

/-- Another master's call that the bus does not answer waits (R187, R189). -/
theorem otherTransaction_unanswered (hp : s.phase = .idle) (he : s.extCall = none) (hb : s.busAnswers = []) (w : Xr) :
    otherTransaction w s = .next { s with extCall := some w, calls := s.calls ++ [.other w] } := by
  refine otherTransaction_next.2 ⟨hp, he, ?_⟩
  rw [otherAnswered, hb]

/-- While another master's call waits, an idle unit accepts nothing and does nothing but let the bus answer it (R238,
R240). -/
theorem step_of_extCall {w : Xr} (hr : Running s) (hp : s.phase = .idle) (he : s.extCall = some w) :
    step s = .next (otherAnswered s) := by
  have hfetch : fetch s = none := fetch_eq_none_iff.2 (.inl (by simp [he]))
  simp [step, advance, hr, hp, hfetch, idleWait, he]

/-- Settles O55: a call begins to wait where the bus has no answer, and ends with the next answer. -/
theorem otherMastersCallWaits : Obligations.OtherMastersCallWaits := by
  unfold Obligations.OtherMastersCallWaits
  refine ⟨fun s w rest hready hb hi => ?_, fun s w hr hp he => ⟨fun hb => ?_, fun a rest hb => ?_⟩⟩
  · have ⟨_, hp, he⟩ := hready
    rw [step_command hready hi]
    exact otherTransaction_unanswered (s := { s with inbox := rest }) hp he hb w
  · rw [step_of_extCall hr hp he, otherAnswered, hb]
  · rw [step_of_extCall hr hp he, otherAnswered, hb]

/-! ### What of a response word matters -/

/-- Whether a response word signals failure depends on its `result` field alone (R186). -/
theorem responseFails_congr {v w : Xr} (h : Xr.result v = Xr.result w) (c : Config) :
    responseFails c v = responseFails c w := by
  rw [responseFails, responseFails, h]

/-- `IssueRead` neither reads nor writes `XRSP` (R160). -/
theorem issueRead_with_xrsp (s : State) (w : Xr) : issueRead { s with xrsp := w } = { issueRead s with xrsp := w } := by
  rw [issueRead_eq, issueRead_eq]
  split <;> rfl

/-- `IssueWrite` neither reads nor writes `XRSP` (R160). -/
theorem issueWrite_with_xrsp (s : State) (w : Xr) :
    issueWrite { s with xrsp := w } = { issueWrite s with xrsp := w } := by
  rw [issueWrite_eq, issueWrite_eq]
  split <;> rfl

/-- The tests of a read attempt read two fields of the response word (R142, R185). -/
theorem judgeRead_with_xrsp {w : Xr} (hc : Xr.checksum w = Xr.checksum s.xrsp) (hr : Xr.result w = Xr.result s.xrsp) :
    judgeRead { s with xrsp := w } = { judgeRead s with xrsp := w } := by
  rw [judgeRead, judgeRead, hc, responseFails_congr hr]
  split
  · exact issueRead_with_xrsp s w
  · split <;> rfl

/-- The tests of a write attempt read two fields of the response word (R154, R185). -/
theorem judgeWrite_with_xrsp {w : Xr} (hc : Xr.checksum w = Xr.checksum s.xrsp) (hr : Xr.result w = Xr.result s.xrsp) :
    judgeWrite { s with xrsp := w } = { judgeWrite s with xrsp := w } := by
  rw [judgeWrite, judgeWrite, hc, responseFails_congr hr]
  split
  · exact issueWrite_with_xrsp s w
  · split <;> rfl

/-- Settles O42: in both phases the attempt's tests are all that reads the response word. -/
theorem responseOpAndFrameAreIgnored : Obligations.ResponseOpAndFrameAreIgnored := by
  unfold Obligations.ResponseOpAndFrameAreIgnored
  refine ⟨fun s t w hr hp hc hres hstep => ?_, fun s t a b rest hr hp hb hc hres hstep => ?_⟩
  · rw [step_of_rdSig hr hp, outcome_next_inj] at hstep
    rw [step_of_rdSig (s := { s with xrsp := w }) hr hp, outcome_next_inj, ← hstep]
    rcases readChecked_cases (s := s) with ⟨hs, e⟩ | ⟨gs, hs, e⟩ | ⟨gs, hs, e⟩ <;> rw [e, readChecked, hs]
    · rfl
    · exact judgeRead_with_xrsp (s := { s with sigAnswers := gs, csum := ck s.cfg s.fbuf }) hc hres
  · rw [step_of_wrBus hr hp, outcome_next_inj, writeAnswered, hb] at hstep
    rw [step_of_wrBus (s := { s with busAnswers := b :: rest }) hr hp, outcome_next_inj, ← hstep]
    exact judgeWrite_with_xrsp (s := { s with busAnswers := rest, xrsp := a.response }) hc.symm hres.symm

/-! ### The faithful bus -/

/-- A faithful answer to a write stores the frame and ends the write `OK` (R188). -/
theorem faithful_write {c : Config} {M M' : Store} {f : BitVec 16} {cs : BitVec 32} {rc : BitVec 8} {B : Frame}
    {a : BusAnswer} (h : FaithfulAnswer c M M' (.bus (Xr.pack c.opWriteFrame f cs rc) B .wr) a) :
    M' f = B ∧ Xr.checksum a.response = ck c B ∧ writeCompletion c (ck c B) a = { status := .ok } := by
  obtain ⟨hM, hc, hok⟩ := h (Xr.op_pack ..)
  refine ⟨by simp [hM, Store.set], hc, (writeCompletion_of_match hc).trans (if_neg ?_)⟩
  exact Bool.eq_false_iff.1 hok

/-- A faithful answer to a read returns the stored frame and ends the read `OK` with it (R188). -/
theorem faithful_read {c : Config} {M M' : Store} {f : BitVec 16} {cs : BitVec 32} {rc : BitVec 8} {B : Frame}
    {a : BusAnswer} (h : FaithfulAnswer c M M' (.bus (Xr.pack c.opReadFrame f cs rc) B .rd) a) :
    a.buffer = M f ∧ ck c a.buffer = Xr.checksum a.response ∧
      readCompletion c a .ok = { status := .ok, qData := some (M f) } := by
  obtain ⟨-, hbuf, hc, hok⟩ := h (Xr.op_pack ..)
  rw [Xr.frame_pack] at hbuf hc
  have hm : ck c a.buffer = Xr.checksum a.response := by rw [hbuf, hc]
  exact ⟨hbuf, hm, hbuf ▸ (readCompletion_of_decided (.inr hm)).trans (if_neg (Bool.eq_false_iff.1 hok))⟩

/-- Over an eventually faithful bus a read completes `OK` with the stored frame (R188). -/
theorem run_readFrame_faithful {f : BitVec 16} {old : Frame} {rest : List Wire} {M M' : Store}
    {bad more : List BusAnswer} {a : BusAnswer} {gs : List SigAnswer} (hr : Ready s)
    (hi : s.inbox = encode s.cfg (.readFrame f) :: rest)
    (hbad : ∀ b ∈ bad, ck s.cfg b.buffer ≠ Xr.checksum b.response) (hlen : bad.length < s.cfg.retryBudget)
    (hfaithful : FaithfulAnswer s.cfg M M' (.bus (Xr.pack s.cfg.opReadFrame f 0 0) old .rd) a)
    (hb : s.busAnswers = bad ++ a :: more) (hs : s.sigAnswers = List.replicate (bad.length + 1) .ok ++ gs) :
    ∃ t, run (1 + 2 * (bad.length + 1)) s = .next t ∧ t.phase = .idle ∧ t.inbox = rest ∧ t.fbuf = M f ∧
      t.busAnswers = more ∧ t.sigAnswers = gs ∧
      t.completions = s.completions ++ [{ status := .ok, qData := some (M f) }] := by
  obtain ⟨hbuf, hm, hk⟩ := faithful_read hfaithful
  rw [List.replicate_succ', List.append_assoc] at hs
  obtain ⟨c, w, hrun⟩ := run_readFrame hr hi hbad hlen (.inl (.inr hm)) hb hs
  exact ⟨_, hrun, rfl, rfl, hbuf, rfl, rfl, congrArg (s.completions ++ [·]) hk⟩

/-- Settles O38: the write leaves a ready unit and the rest of the answers, and the read runs on those. -/
theorem faithfulBusRoundTrip : Obligations.FaithfulBusRoundTrip := by
  unfold Obligations.FaithfulBusRoundTrip
  intro s f B old rest M M' M'' bad1 bad2 w r more gs hready hB hinbox hlen1 hlen2 hbad1 hbad2 hw hr hbus hsig
  have ⟨hrunning, _, hfree⟩ := hready
  obtain ⟨rfl, hecho, hk⟩ := faithful_write hw
  rw [Nat.add_comm 1, List.replicate_succ] at hsig
  obtain ⟨x, hwrite⟩ := run_writeFrame hready hB hinbox hsig hbad1 hlen1 (.inl hecho) hbus
  rw [hk] at hwrite
  rw [List.append_cons s.completions, run_add hwrite]
  exact run_readFrame_faithful ⟨hrunning, rfl, hfree⟩ rfl hbad2 hlen2 hr rfl rfl

end Sys2Proof.Machine
end

section
/-! The exceptions family (60_exceptions.md): which error a step finds and in which state, said once by `Raises`; a step
delivers an error's status exactly when the error is found, and what raising it leaves alone. -/

namespace Sys2Proof.Machine

variable {s t u : State} {k : Completion} {x : TransferError}

/-! ### Waiting for a neighbour -/

/-- The sequencer does nothing while the agent its phase waits for has not answered (R210, R246). -/
theorem sequencer_of_unanswered
    (h : ((s.phase = .rdBus ∨ s.phase = .wrBus) ∧ s.busAnswers = []) ∨
      ((s.phase = .ckSig ∨ s.phase = .rdSig ∨ s.phase = .wrSig) ∧ s.sigAnswers = [])) : sequencer s = s := by
  rcases h with ⟨hp | hp, hb⟩ | ⟨hp | hp | hp, hs⟩
  · rw [sequencer, hp, readAnswered, hb]
  · rw [sequencer, hp, writeAnswered, hb]
  · rw [sequencer, hp, checksumAnswered, hs]
  · rw [sequencer, hp, readChecked, hs]
  · rw [sequencer, hp, writeChecked, hs]

/-! ### The errors of the unit -/

theorem errorStatus_injective : Function.Injective errorStatus := by
  intro x y h
  cases x <;> cases y <;> simp_all [errorStatus]

/-- `Raises s x u`: a unit in `s` finds the error `x` in the answer it waits for, and `u` is `s` with that answer taken
in, the state the error is raised from (R201 to R203, R208). -/
inductive Raises (s : State) : TransferError → State → Prop where
  /-- T2, T6, T11: the signature call fails. -/
  | sigFails (rest : List SigAnswer) (hp : s.phase = .ckSig ∨ s.phase = .rdSig ∨ s.phase = .wrSig)
      (hs : s.sigAnswers = .fail :: rest) : Raises s .checksumUnavailable { s with sigAnswers := rest }
  /-- T7 at the end of the budget. -/
  | readExhausted (rest : List SigAnswer) (hp : s.phase = .rdSig) (hs : s.sigAnswers = .ok :: rest)
      (hm : ck s.cfg s.fbuf ≠ Xr.checksum s.xrsp) (ha : s.attempt = s.cfg.retryBudget) :
      Raises s .checksumExhausted { s with sigAnswers := rest, csum := ck s.cfg s.fbuf }
  /-- T8. -/
  | readError (rest : List SigAnswer) (hp : s.phase = .rdSig) (hs : s.sigAnswers = .ok :: rest)
      (hm : ck s.cfg s.fbuf = Xr.checksum s.xrsp) (hf : responseFails s.cfg s.xrsp = true) :
      Raises s .deviceError { s with sigAnswers := rest, csum := ck s.cfg s.fbuf }
  /-- T12 with no attempt left: the invariant excludes it. -/
  | writeUnsent (rest : List SigAnswer) (hp : s.phase = .wrSig) (hs : s.sigAnswers = .ok :: rest)
      (ha : s.attempt = s.cfg.retryBudget) :
      Raises s .checksumExhausted { s with sigAnswers := rest, csum := ck s.cfg s.fbuf }
  /-- T13 at the end of the budget. -/
  | writeExhausted (a : BusAnswer) (rest : List BusAnswer) (hp : s.phase = .wrBus) (hb : s.busAnswers = a :: rest)
      (hm : Xr.checksum a.response ≠ s.csum) (ha : s.attempt = s.cfg.retryBudget) :
      Raises s .checksumExhausted { s with busAnswers := rest, xrsp := a.response }
  /-- T14. -/
  | writeError (a : BusAnswer) (rest : List BusAnswer) (hp : s.phase = .wrBus) (hb : s.busAnswers = a :: rest)
      (hm : Xr.checksum a.response = s.csum) (hf : responseFails s.cfg a.response = true) :
      Raises s .deviceError { s with busAnswers := rest, xrsp := a.response }

/-- A unit that finds an error raises it in that step. -/
theorem Raises.step_eq (h : Raises s x u) (hr : Running s) : step s = .next (raise x u) := by
  cases h with
  | sigFails rest hp hs =>
    rcases hp with hp | hp | hp
    · exact step_of_ckSig hr hp hs
    · exact (readAttemptIsJudged s _ rest hr hp hs).1 rfl
    · exact (writeChecksumIsTaken s _ rest hr hp hs).1 rfl
  | readExhausted rest hp hs hm ha =>
    obtain ⟨-, hexhausted, -⟩ := readAttemptIsJudged s _ rest hr hp hs
    exact hexhausted rfl hm ha
  | readError rest hp hs hm hf =>
    obtain ⟨-, -, -, herror, -⟩ := readAttemptIsJudged s _ rest hr hp hs
    exact herror rfl hm hf
  | writeUnsent rest hp hs ha =>
    rw [step_of_wrSig hr hp, writeChecked, hs]
    exact congrArg _ (issueWrite_eq.trans (if_pos ha))
  | writeExhausted a rest hp hb hm ha =>
    obtain ⟨-, hexhausted, -⟩ := writeAttemptIsJudged s a rest hr hp hb
    exact hexhausted hm ha
  | writeError a rest hp hb hm hf =>
    obtain ⟨-, -, -, herror, -⟩ := writeAttemptIsJudged s a rest hr hp hb
    exact herror hm hf

/-- Taking the answer in delivers nothing and makes no call; of the registers it writes only `CSUM`, with the checksum
of `FBUF`, or `XRSP`, with the bus's word (R208). -/
theorem Raises.frame (h : Raises s x u) :
    u.completions = s.completions ∧ u.calls = s.calls ∧
    u.attempt = s.attempt ∧ u.fidx = s.fidx ∧ u.fbuf = s.fbuf ∧ u.xcmd = s.xcmd ∧
    (u.csum = s.csum ∨ (s.phase = .rdSig ∨ s.phase = .wrSig) ∧ u.csum = ck s.cfg s.fbuf) ∧
    (u.xrsp = s.xrsp ∨ s.phase = .wrBus ∧ ∃ a rest, s.busAnswers = a :: rest ∧ u.xrsp = a.response) := by
  cases h with
  | sigFails => exact ⟨rfl, rfl, rfl, rfl, rfl, rfl, .inl rfl, .inl rfl⟩
  | readExhausted _ hp | readError _ hp => exact ⟨rfl, rfl, rfl, rfl, rfl, rfl, .inr ⟨.inl hp, rfl⟩, .inl rfl⟩
  | writeUnsent _ hp => exact ⟨rfl, rfl, rfl, rfl, rfl, rfl, .inr ⟨.inr hp, rfl⟩, .inl rfl⟩
  | writeExhausted a rest hp hb | writeError a rest hp hb =>
    exact ⟨rfl, rfl, rfl, rfl, rfl, rfl, .inl rfl, .inr ⟨hp, a, rest, hb, rfl⟩⟩

/-- An error status is delivered only by raising an error that was found, and with no result. -/
theorem Effect.raised_of_error (e : Effect s t) (hk : t.completions = s.completions ++ [k]) (herr : k.status ≠ .ok) :
    ∃ x u, Raises s x u ∧ t = raise x u ∧ k = { status := errorStatus x } := by
  cases e with
  | sigFails rest _ hp hs => exact ⟨_, _, .sigFails rest hp hs, rfl, delivered_unique hk rfl⟩
  | readExhausted rest _ hp hs hm ha => exact ⟨_, _, .readExhausted rest hp hs hm ha, rfl, delivered_unique hk rfl⟩
  | readError rest _ hp hs hm hf => exact ⟨_, _, .readError rest hp hs hm hf, rfl, delivered_unique hk rfl⟩
  | writeUnsent rest _ hp hs ha => exact ⟨_, _, .writeUnsent rest hp hs ha, rfl, delivered_unique hk rfl⟩
  | writeExhausted a rest _ hp hb hm ha =>
    exact ⟨_, _, .writeExhausted a rest hp hb hm ha, rfl, delivered_unique hk rfl⟩
  | writeError a rest _ hp hb hm hf => exact ⟨_, _, .writeError a rest hp hb hm hf, rfl, delivered_unique hk rfl⟩
  | checksum | readOk | writeOk =>
    cases delivered_unique hk rfl
    exact absurd rfl herr
  | codec _ _ _ _ _ _ _ hok =>
    cases delivered_unique hk rfl
    exact absurd hok herr
  | _ => exact absurd hk (by simp)

/-- A running unit delivers the status of an error exactly in the steps that find this error. -/
theorem delivers_errorStatus_iff (hr : Running s) (hstep : step s = .next t) :
    (∃ k, t.completions = s.completions ++ [k] ∧ k.status = errorStatus x) ↔ ∃ u, Raises s x u := by
  constructor
  · rintro ⟨k, hk, hx⟩
    have herr : k.status ≠ .ok := by cases x <;> simp [hx, errorStatus]
    obtain ⟨y, u, hfound, -, rfl⟩ := (step_effect hstep).raised_of_error hk herr
    obtain rfl : y = x := errorStatus_injective hx
    exact ⟨u, hfound⟩
  · rintro ⟨u, hfound⟩
    obtain ⟨hdelivered, -⟩ := hfound.frame
    obtain rfl : raise x u = t := outcome_next_inj.1 ((hfound.step_eq hr).symm.trans hstep)
    exact ⟨{ status := errorStatus x }, by simp [hdelivered], rfl⟩

/-! ### The statements -/

/-- Settles O15: a busy unit steps by its sequencer, which waits for the answer. -/
theorem unansweredCallWaits : Obligations.UnansweredCallWaits := by
  unfold Obligations.UnansweredCallWaits
  intro s hr hwait
  have hbusy : s.phase ≠ .idle := by
    rcases hwait with ⟨hp | hp, -⟩ | ⟨hp | hp | hp, -⟩ <;> simp [hp]
  rw [step_busy hr hbusy, sequencer_of_unanswered hwait]

/-- Settles O44: an error status comes from `raise`, which keeps every register of the state with the answer taken in
but `STATUS` and `PHASE`. -/
theorem raisedErrorsDeliverStatusOnly : Obligations.RaisedErrorsDeliverStatusOnly := by
  unfold Obligations.RaisedErrorsDeliverStatusOnly
  intro s t k hstep hk herr
  obtain ⟨x, u, hfound, rfl, rfl⟩ := (step_effect hstep).raised_of_error hk herr
  obtain ⟨-, hcalls, hattempt, hfidx, hfbuf, hxcmd, hcsum, hxrsp⟩ := hfound.frame
  exact ⟨rfl, rfl, rfl, hattempt, hfidx, hfbuf, hxcmd, hcalls, hcsum, hxrsp⟩

/-- Settles O45: only a failed signature call is found as this error; what it leaves alone is O44, and on a write the
invariant says that no attempt was made before the signature call. -/
theorem unavailableExactlyOnSignatureFailure : Obligations.UnavailableExactlyOnSignatureFailure := by
  unfold Obligations.UnavailableExactlyOnSignatureFailure
  intro s t hinv hr hstep
  refine ⟨(delivers_errorStatus_iff (x := .checksumUnavailable) hr hstep).trans ⟨?_, ?_⟩, fun k hk hstatus => ?_⟩
  · rintro ⟨u, hfound⟩
    cases hfound with
    | sigFails rest hp hs => exact ⟨hp, rest, hs⟩
  · rintro ⟨hp, rest, hs⟩
    exact ⟨_, .sigFails rest hp hs⟩
  · obtain ⟨-, hidle, -, hattempt, -, -, -, hcalls, -⟩ :=
      raisedErrorsDeliverStatusOnly s t k hstep hk (by simp [hstatus])
    exact ⟨hidle, hcalls, hattempt, fun hp => (phaseInv_iff_of_wrSig hp).1 hinv.phase⟩

/-- Settles O46: the error is found at the end of the budget by a read's or a write's comparison; the invariant excludes
that the budget is used up before a write's first attempt. -/
theorem exhaustedExactlyOnLastMismatch : Obligations.ExhaustedExactlyOnLastMismatch := by
  unfold Obligations.ExhaustedExactlyOnLastMismatch
  intro s t hinv hr hstep
  refine (delivers_errorStatus_iff (x := .checksumExhausted) hr hstep).trans ⟨?_, ?_⟩
  · rintro ⟨u, hfound⟩
    cases hfound with
    | readExhausted rest hp hs hm ha => exact ⟨ha, .inl ⟨hp, hm, rest, hs⟩⟩
    | writeExhausted a rest hp hb hm ha => exact ⟨ha, .inr ⟨hp, a, rest, hb, hm⟩⟩
    | writeUnsent rest hp hs ha =>
      have hunsent : s.attempt = 0 := (phaseInv_iff_of_wrSig hp).1 hinv.phase
      have hbudget := budget_pos hinv.cfg
      omega
  · rintro ⟨ha, ⟨hp, hm, rest, hs⟩ | ⟨hp, a, rest, hb, hm⟩⟩
    · exact ⟨_, .readExhausted rest hp hs hm ha⟩
    · exact ⟨_, .writeExhausted a rest hp hb hm ha⟩

/-- Settles O47: the error is found where a read's or a write's checksums agree and the result fails; that it ends the
operation and delivers the status alone is O44. -/
theorem deviceErrorExactlyOnCorroboratedFailure : Obligations.DeviceErrorExactlyOnCorroboratedFailure := by
  unfold Obligations.DeviceErrorExactlyOnCorroboratedFailure
  intro s t hr hstep
  refine ⟨(delivers_errorStatus_iff (x := .deviceError) hr hstep).trans ⟨?_, ?_⟩, fun k hk hstatus => ?_⟩
  · rintro ⟨u, hfound⟩
    cases hfound with
    | readError rest hp hs hm hf => exact .inl ⟨hp, ⟨rest, hs⟩, hm, hf⟩
    | writeError a rest hp hb hm hf => exact .inr ⟨hp, a, rest, hb, hm, hf⟩
  · rintro (⟨hp, ⟨rest, hs⟩, hm, hf⟩ | ⟨hp, a, rest, hb, hm, hf⟩)
    · exact ⟨_, .readError rest hp hs hm hf⟩
    · exact ⟨_, .writeError a rest hp hb hm hf⟩
  · obtain ⟨-, hidle, halone, -, -, -, -, hcalls, -⟩ :=
      raisedErrorsDeliverStatusOnly s t k hstep hk (by simp [hstatus])
    exact ⟨hidle, hcalls, hstatus ▸ halone⟩

end Sys2Proof.Machine
end

section
/-! The reset and hazards family (70_reset_and_hazards.md): a unit with nothing to do waits, a command word that is not the
unit's outstanding one is refused while the unit is busy, and a reset drops the operation in progress. -/

namespace Sys2Proof.Machine

variable {s : State}

/-! ### Waiting -/

/-- An idle unit that fetches nothing takes the waiting step (R230). -/
theorem step_of_fetch_none (hr : Running s) (hp : s.phase = .idle) (hf : fetch s = none) :
    step s = .next (idleWait s) := by
  simp [step, advance, hr, hp, hf]

/-- Waiting changes nothing unless another master waits for the bus (R189, R230). -/
theorem idleWait_of_extCall_none (he : s.extCall = none) : idleWait s = s :=
  if_pos he

/-- Settles O14: an empty inbox gives nothing to fetch, and no other master's call is there to be answered. -/
theorem idleUnitWaits : Obligations.IdleUnitWaits := by
  unfold Obligations.IdleUnitWaits
  intro s ⟨hr, hp, he⟩ hi
  rw [step_of_fetch_none hr hp (fetch_eq_none_iff.2 (.inr hi)), idleWait_of_extCall_none he]

/-! ### The bus while the unit is busy -/

/-- No other master gets the bus while the unit is busy (R240). -/
theorem otherTransaction_of_busy (hp : s.phase ≠ .idle) (w : Xr) :
    otherTransaction w s = .refused .busNotExclusive :=
  if_neg fun h => hp h.1

/-- A read's command word that the unit does not have outstanding is another master's (R189, R190). -/
theorem exec_rdframe_other {f : BitVec 16} {cs : BitVec 32} {r : BitVec 8}
    (h : ¬ (s.phase = .rdBus ∧ s.xcmd = Xr.pack s.cfg.opReadFrame f cs r)) :
    exec (.rdframe f cs r) s = otherTransaction (Xr.pack s.cfg.opReadFrame f cs r) s :=
  if_neg h

/-- A write's command word that the unit does not have outstanding is another master's (R189, R191). -/
theorem exec_wrframe_other {f : BitVec 16} {cs : BitVec 32} {r : BitVec 8}
    (h : ¬ (s.phase = .wrBus ∧ s.xcmd = Xr.pack s.cfg.opWriteFrame f cs r)) :
    exec (.wrframe f cs r) s = otherTransaction (Xr.pack s.cfg.opWriteFrame f cs r) s :=
  if_neg h

/-- Settles O57: each of the five words is another master's transaction here, and a busy unit refuses all of those. -/
theorem busIsExclusiveWhileBusy : Obligations.BusIsExclusiveWhileBusy := by
  unfold Obligations.BusIsExclusiveWhileBusy
  refine fun s k k2 r hp => ⟨fun i hi => ?_, fun hother => ?_, fun hother => ?_⟩
  · simp only [List.mem_cons, List.not_mem_nil, or_false] at hi
    obtain rfl | rfl | rfl := hi <;> exact otherTransaction_of_busy hp _
  · rw [exec_rdframe_other hother, otherTransaction_of_busy hp]
  · rw [exec_wrframe_other hother, otherTransaction_of_busy hp]

/-! ### Reset -/

/-- Reset comes before everything but the test of the parameters (R231). -/
theorem step_of_resetLine (hc : s.cfg.wf = true) (hl : s.resetLine = true) : step s = .next (resetEvent s) := by
  simp [step, advance, hc, hl]

/-- A reset discards a bus answer exactly where a transaction is outstanding (R231). -/
theorem busAnswersAfterReset_eq (s : State) : busAnswersAfterReset s =
    if s.phase = .rdBus ∨ s.phase = .wrBus then s.busAnswers.tail else s.busAnswers := by
  unfold busAnswersAfterReset
  cases s.phase <;> rfl

/-- A reset discards a signature answer exactly where a signature call is outstanding (R231). -/
theorem sigAnswersAfterReset_eq (s : State) : sigAnswersAfterReset s =
    if s.phase = .ckSig ∨ s.phase = .rdSig ∨ s.phase = .wrSig then s.sigAnswers.tail else s.sigAnswers := by
  unfold sigAnswersAfterReset
  cases s.phase <;> rfl

/-- Settles O59: the step is the reset event, whose fields are known, and what it leaves of the two lists of answers
depends on the phase alone. -/
theorem resetDropsOperation : Obligations.ResetDropsOperation := by
  unfold Obligations.ResetDropsOperation
  intro s hc hl
  exact ⟨resetEvent s, step_of_resetLine hc hl, resetEvent_phase s, resetEvent_attempt s, resetEvent_status s,
    resetEvent_resetLine s, resetEvent_completions s, resetEvent_calls s, resetEvent_inbox s, resetEvent_cfg s,
    busAnswersAfterReset_eq s, sigAnswersAfterReset_eq s⟩

end Sys2Proof.Machine
end
